-- ==== Sys2Proof/Word.lean ====
section
/-! DEFINITION. The word types of IPV4-VDD (spec rules R5, R10, R18, R23, R12). -/

namespace Sys2Proof

/-- The content of one 32-bit register; as a BitField32 its length is 32 by construction (R5, R10, R18). -/
abbrev Word := BitVec 32

/-- One octet of a field, a value in 0 to 255 (R5, R12). -/
abbrev Octet := BitVec 8

/-- The 3-bit index by which a host action names a register (R18, R31). -/
abbrev RegIndex := BitVec 3

/-- The 4-bit field `ST.CODE` (R23). -/
abbrev StatusCode := BitVec 4

end Sys2Proof
end

