-- ==== Sys2Proof/Syntax.lean ====
section
/-! DEFINITION. The command set: one constructor per row of spec/opcode_table.json (R47, R53). -/

namespace Sys2Proof

/-- The seven commands of the block. Operands are fixed registers (R48); the host flag `H` is the only operand that
stands in the command word, and only the two constructions have it (R45), so a flag on another command cannot
be written down here: the decoder rejects such a word. -/
inductive Instr where
  /-- `OPC` 1, `validate_mask(M)` (R60). -/
  | vmask
  /-- `OPC` 2, `mask_from_cidr(C)` (R63). -/
  | c2m
  /-- `OPC` 3, `cidr_from_mask(M)` (R65). -/
  | m2c
  /-- `OPC` 4, `network_id(A, M)` (R68). -/
  | netid
  /-- `OPC` 5, `broadcast(A, M)` (R70). -/
  | bcast
  /-- `OPC` 6, construction from (A, M) with the host flag (R74). -/
  | mkaddr (requireHost : Bool)
  /-- `OPC` 7, construction from (A, C) with the host flag (R76). -/
  | mkaddrc (requireHost : Bool)
deriving DecidableEq, Repr

end Sys2Proof
end

