-- ==== Sys2Proof/Decode.lean ====
section
/-! DEFINITION. The command word, format CW (R45 to R49): its fields, the total decoder, and the encoder. The block
fetches nothing (R41) and has no fetch byte order (R35): a command word is the 32-bit datum of a host write to CMD. -/

namespace Sys2Proof

/-- Why a command word is illegal. Every reason has the same effect, `ERR_ILLEGAL` (R46, R49); the names serve the
reader only. -/
inductive IllegalWord where
  /-- A bit among 31:5 is set. -/
  | reservedBits
  /-- The opcode is 0 or one of 8 to 15. -/
  | unassignedOpcode
  /-- The host flag is set on an opcode 1 to 5. -/
  | hostFlagOnPlainCommand
deriving DecidableEq, Repr

/-- `OPC`, bits 3:0 (R45). -/
def opcField (w : Word) : BitVec 4 := w.extractLsb' 0 4

/-- `H`, bit 4 (R45). -/
def hostFlagField (w : Word) : Bool := w.getLsbD 4

/-- `RSV`, bits 31:5 (R45). -/
def reservedField (w : Word) : BitVec 27 := w.extractLsb' 5 27

/-- A command that has no host flag is selected only with `H` = 0 (R46). -/
def withoutHostFlag (h : Bool) (i : Instr) : Except IllegalWord Instr :=
  if h then .error .hostFlagOnPlainCommand else .ok i

/-- The decoder (R46, R47): total on all 2^32 words. -/
def decode (w : Word) : Except IllegalWord Instr :=
  if reservedField w ≠ 0 then .error .reservedBits
  else
    match (opcField w).toNat with
    | 1 => withoutHostFlag (hostFlagField w) .vmask
    | 2 => withoutHostFlag (hostFlagField w) .c2m
    | 3 => withoutHostFlag (hostFlagField w) .m2c
    | 4 => withoutHostFlag (hostFlagField w) .netid
    | 5 => withoutHostFlag (hostFlagField w) .bcast
    | 6 => .ok (.mkaddr (hostFlagField w))
    | 7 => .ok (.mkaddrc (hostFlagField w))
    | _ => .error .unassignedOpcode

/-- The opcode of a command (R47). -/
def Instr.opcode : Instr → BitVec 4
  | .vmask => 1
  | .c2m => 2
  | .m2c => 3
  | .netid => 4
  | .bcast => 5
  | .mkaddr _ => 6
  | .mkaddrc _ => 7

/-- The host flag of a command; 0 where it is not defined (R45). -/
def Instr.hostFlag : Instr → Bool
  | .vmask => false
  | .c2m => false
  | .m2c => false
  | .netid => false
  | .bcast => false
  | .mkaddr h => h
  | .mkaddrc h => h

/-- The command word of a command, `RSV`, `H`, `OPC` from the top (R45, R47). -/
def encode (i : Instr) : Word :=
  (0#27 ++ (BitVec.ofBool i.hostFlag ++ i.opcode) : BitVec (27 + (1 + 4)))

/-- The command word whose low `nbits` bits are those of `w` and whose other bits are 0. A command has one length,
32 bits (R45): bits of `w` from 32 up do not exist. -/
def tableWord (nbits w : Nat) : Word := BitVec.ofNat 32 (w % 2 ^ nbits)

/-- What the decoder reads from a row of spec/opcode_table.json whose bits are `w`. -/
def decodeTableWord (nbits w : Nat) : Option Instr :=
  match decode (tableWord nbits w) with
  | .ok i => some i
  | .error _ => none

end Sys2Proof
end

