-- ==== Sys2Proof/Machine/Flags.lean ====
section
/-! DEFINITION. The status codes and the failures (R80 to R82). `ST.CODE` is the only status the block has: no carry,
zero, sign or overflow flag exists (R23). -/

namespace Sys2Proof.Machine

/-- The nine values `ST.CODE` is allotted (R80). -/
inductive Status where
  | stNone
  | stOk
  | errLength
  | errFormat
  | errMask
  | errCidr
  | errHostNetid
  | errHostBcast
  | errIllegal
deriving DecidableEq, Repr

/-- The number of a status (R80). -/
def Status.code : Status → StatusCode
  | .stNone => 0
  | .stOk => 1
  | .errLength => 2
  | .errFormat => 3
  | .errMask => 4
  | .errCidr => 5
  | .errHostNetid => 6
  | .errHostBcast => 7
  | .errIllegal => 8

/-- The ways a command word can fail. `ERR_LENGTH` and `ERR_FORMAT` are not among them: the block never writes them
(R81). A failure carries nothing but its kind (R85). -/
inductive Failure where
  /-- `MaskError::NotContiguous`. -/
  | mask
  /-- `CidrError::OutOfRange`. -/
  | cidr
  /-- `HostIsNetworkId`. -/
  | hostIsNetworkId
  /-- `HostIsBroadcast`. -/
  | hostIsBroadcast
  /-- The command word is not one of the nine legal words (R82). -/
  | illegal
deriving DecidableEq, Repr

/-- The status a failure leaves in ST (R80). -/
def Failure.status : Failure → Status
  | .mask => .errMask
  | .cidr => .errCidr
  | .hostIsNetworkId => .errHostNetid
  | .hostIsBroadcast => .errHostBcast
  | .illegal => .errIllegal

end Sys2Proof.Machine
end

