-- ==== Sys2Proof/Config.lean ====
section
/-! DEFINITION. The constants the spec fixes (R5). None is configurable, and the one open parameter of the spec,
`BusBinding` (R6), touches no rule, so that the model takes no argument and needs no free value. -/

namespace Sys2Proof.Config

/-- Positions of a BitField32 (R5). -/
abbrev fieldWidth : Nat := 32

/-- Adjacent pairs `i`, `i+1` that the monotonicity checker examines, `i` from 0 to 30 (R5). -/
abbrev adjacentPairs : Nat := 31

/-- Least prefix length the CIDR-to-mask converter accepts (R5; the reading of `1..30` is conflict C1). -/
abbrev cidrMin : Int := 1

/-- Greatest prefix length the CIDR-to-mask converter accepts, itself accepted (R5, C1). -/
abbrev cidrMax : Int := 30

end Sys2Proof.Config
end

