-- ==== Sys2Proof/Machine/BitField.lean ====
section
/-! DEFINITION. The value types of the source and the primitives of the pseudocode: field indexes, octet lanes, signed
reading, population count (R7, R8, R10 to R13). -/

namespace Sys2Proof.Machine

/-- `X{i}`: position `i` of the field, 0 the most significant bit of the first octet; it is word bit `31-i` (R7, R11). -/
def fieldBit (x : Word) (i : Nat) : Bool := x.getMsbD i

/-- The first `n` positions of a field given position by position, position 0 the most significant. -/
def fieldPrefix (f : Nat → Bool) : (n : Nat) → BitVec n
  | 0 => 0#0
  | n + 1 => (fieldPrefix f n).concat (f n)

/-- The field `X` with `X{i}` = `f i` for `i` in 0 to 31 (R10, R11). -/
def fieldOf (f : Nat → Bool) : Word := fieldPrefix f Config.fieldWidth

/-- `sext_32(x)`: the word read as a two's-complement integer (R8, R21). -/
def sext32 (x : Word) : Int := x.toInt

/-- `popcount(x)`: how many of the 32 bits are 1 (R8). -/
def popcount (x : Word) : Nat := (List.range Config.fieldWidth).countP (fun n => x.getLsbD n)

/-- Four octets, octet 0 the first number of the dotted-decimal form (R12, R35). -/
structure OctetQuad where
  o0 : Octet
  o1 : Octet
  o2 : Octet
  o3 : Octet
deriving DecidableEq, Repr

/-- The source's `bits_to_octets`: octet 0 is word bits 31:24, octet 3 word bits 7:0 (R12). -/
def bitsToOctets (x : Word) : OctetQuad where
  o0 := x.extractLsb' 24 8
  o1 := x.extractLsb' 16 8
  o2 := x.extractLsb' 8 8
  o3 := x.extractLsb' 0 8

/-- The source's `octets_to_bits`: the word `o0, o1, o2, o3` from the most significant octet down (R13). -/
def octetsToBits (o : OctetQuad) : Word :=
  (o.o0 ++ (o.o1 ++ (o.o2 ++ o.o3)) : BitVec (8 + (8 + (8 + 8))))

end Sys2Proof.Machine
end

