-- ==== Sys2Proof/Machine/State.lean ====
section
/-! DEFINITION. The state of IPV4-VDD: the seven stored registers (R18 to R27) and, because a step takes nothing but a
state, the host's side of the interface as plain data (assumptions 1 and 4). The block has no memory (R30). -/

namespace Sys2Proof.Machine

/-- The eight registers of the register index space (R18). `cmd` stores nothing (R22). -/
inductive Reg where
  | a
  | m
  | c
  | cmd
  | st
  | r0
  | r1
  | rc
deriving DecidableEq, Repr

/-- The three things a host can do to the block (R31). A register index is a 3-bit number, so an action on an index
outside 0 to 7 cannot be formed. -/
inductive HostAction where
  /-- `Reset`. -/
  | reset
  /-- `HostWrite(idx, v)`. -/
  | write (idx : RegIndex) (v : Word)
  /-- `HostRead(idx)`. -/
  | read (idx : RegIndex)
deriving DecidableEq, Repr

/-- The seven stored registers of the block, and the host's actions still to be performed with the values its reads have
returned. -/
structure State where
  /-- A, index 0: operand `address_bits` (R19). -/
  a : Word
  /-- M, index 1: operand `mask_bits` (R20). -/
  m : Word
  /-- C, index 2: operand `cidr`, two's complement (R21). -/
  c : Word
  /-- `ST.CODE`, index 4, bits 3:0; bits 31:4 of ST read as zero and are not stored (R23). -/
  st : StatusCode
  /-- R0, index 5: primary result field (R24). -/
  r0 : Word
  /-- R1, index 6: secondary result field (R25). -/
  r1 : Word
  /-- RC, index 7: integer result (R26). -/
  rc : Word
  /-- THE MODEL'S OWN field, no state of the block: the host's actions not yet performed, the next one first (the
  "program" of R36; assumption 1). -/
  pending : List HostAction
  /-- THE MODEL'S OWN field, no state of the block: the values the host's reads have returned, in order (R109;
  assumption 4). -/
  observed : List Word
deriving DecidableEq, Repr

/-- Reasons for a step to stop with a fault. There is none, and the type is empty: the block has no trap, no hang and no
stuck state, and every failure is a status code in ST (R84, R109). Safe: nothing can be proved from a fault that
cannot be raised. -/
inductive Fault where
deriving DecidableEq, Repr

/-- Reasons for a step to be refused. -/
inductive Refusal where
  /-- Raised only by an arm of `exec` whose instruction has no meaning yet. No arm of this model raises it. Safe: a
  refused step proves nothing about the hardware. -/
  | notModelled (mnemonic : String)
deriving DecidableEq, Repr

/-- The machine right after `Reset` (R29, R100): every register zero, `ST.CODE` = `ST_NONE`; no action pending and none
observed (assumption 5). -/
def State.reset : State where
  a := 0
  m := 0
  c := 0
  st := 0
  r0 := 0
  r1 := 0
  rc := 0
  pending := []
  observed := []

end Sys2Proof.Machine
end

