-- ==== Sys2Proof/Machine/Operands.lean ====
section
/-! DEFINITION. The operand forms: three fixed operand registers, each read whole at the moment of the command (R48,
R105). The fourth operand, the host flag, comes decoded with the command. -/

namespace Sys2Proof.Machine

/-- The operand `address: BitField32` (R19). -/
def addressOperand (s : State) : Word := s.a

/-- The operand `mask: BitField32`, valid or not (R20). -/
def maskOperand (s : State) : Word := s.m

/-- The operand `cidr: i32`, read signed over all 32 bits (R21, R48). -/
def cidrOperand (s : State) : Int := sext32 s.c

end Sys2Proof.Machine
end

