-- ==== Sys2Proof/Machine/Ops.lean ====
section
/-! DEFINITION. The operations over the registers that every command and every host action shares: how a command ends
(R28, R83), register selection, reads and writes (R32, R33), and reset (R100). The block takes no exception and returns
from none (R84, R89): `finishFail` is its only form of raise (R8). -/

namespace Sys2Proof.Machine

/-- What a successful command leaves in the result registers; a register the command does not fill holds zero (R28). -/
structure Results where
  r0 : Word := 0
  r1 : Word := 0
  rc : Word := 0
deriving DecidableEq, Repr

/-- `fail <code>`: the code into ST and zeros into the three result registers, nothing else (R8, R83). -/
def finishFail (f : Failure) (s : State) : State :=
  { s with st := f.status.code, r0 := 0, r1 := 0, rc := 0 }

/-- `done`: `ST_OK` into ST and the results into the three result registers, nothing else (R8, R83). -/
def finishDone (r : Results) (s : State) : State :=
  { s with st := Status.stOk.code, r0 := r.r0, r1 := r.r1, rc := r.rc }

/-- Every command ends one of these two ways and so rewrites ST, R0, R1 and RC, all four (R28). -/
def finish (outcome : Except Failure Results) (s : State) : State :=
  match outcome with
  | .error f => finishFail f s
  | .ok r => finishDone r s

/-- The register an index names; every 3-bit index names one (R18, R39). -/
def regOfIndex (idx : RegIndex) : Reg :=
  match idx.toNat with
  | 0 => .a
  | 1 => .m
  | 2 => .c
  | 3 => .cmd
  | 4 => .st
  | 5 => .r0
  | 6 => .r1
  | _ => .rc

/-- The index of a register (R18). -/
def indexOfReg : Reg → RegIndex
  | .a => 0
  | .m => 1
  | .c => 2
  | .cmd => 3
  | .st => 4
  | .r0 => 5
  | .r1 => 6
  | .rc => 7

/-- What a host read of a register returns: CMD reads zero (R22), ST reads its code zero-extended (R23, R33). -/
def readReg (r : Reg) (s : State) : Word :=
  match r with
  | .a => s.a
  | .m => s.m
  | .c => s.c
  | .cmd => 0
  | .st => s.st.setWidth 32
  | .r0 => s.r0
  | .r1 => s.r1
  | .rc => s.rc

/-- What a host write stores in a register other than CMD: the operand registers take any value unchecked, the other
four ignore the write (R32). CMD stores nothing (R22); its command is run by `hostWrite`. -/
def storeReg (r : Reg) (v : Word) (s : State) : State :=
  match r with
  | .a => { s with a := v }
  | .m => { s with m := v }
  | .c => { s with c := v }
  | .cmd => s
  | .st => s
  | .r0 => s
  | .r1 => s
  | .rc => s

/-- `Reset` writes every stored register and touches nothing on the host's side (R100, assumption 5). -/
def resetRegisters (s : State) : State :=
  { State.reset with pending := s.pending, observed := s.observed }

/-- A value returned to the host joins the list of what the host has observed (R109). -/
def observe (v : Word) (s : State) : State :=
  { s with observed := s.observed ++ [v] }

end Sys2Proof.Machine
end

