-- ==== Sys2Proof/Machine/MaskValidation.lean ====
section
/-! DEFINITION. The monotonicity checker and VMASK (spec/40_mask_validation.md). -/

namespace Sys2Proof.Machine

/-- The pair `i`, `i+1` is bad: a 0 immediately followed by a 1 (R15, R60). -/
def badPair (m : Word) (i : Nat) : Bool := !fieldBit m i && fieldBit m (i + 1)

/-- Invariant A: no pair among `i` = 0 to 30 is bad (R15, R60). The pair (31, 32) does not exist. -/
def maskValid (m : Word) : Bool := (List.range Config.adjacentPairs).all (fun i => !badPair m i)

/-- The source's `validate_mask` (R60). -/
def validateMask (m : Word) : Except Failure Unit :=
  if maskValid m then .ok () else .error .mask

/-- VMASK: the verdict on M, no result beyond ST (R60). -/
def execVmask (s : State) : Host.Outcome State Fault Refusal :=
  .next (finish ((validateMask (maskOperand s)).map fun _ => ({} : Results)) s)

end Sys2Proof.Machine
end

