-- ==== Sys2Proof/Machine/CidrConversion.lean ====
section
/-! DEFINITION. The two converters, C2M and M2C (spec/41_cidr_conversion.md). -/

namespace Sys2Proof.Machine

/-- The mask whose first `c` positions are 1 (R63). -/
def leadingOnes (c : Int) : Word := fieldOf fun i => decide ((i : Int) < c)

/-- The source's `mask_from_cidr`: 1 to 30 accepted, both ends included (R63, C1). -/
def maskFromCidr (c : Int) : Except Failure Word :=
  if c < Config.cidrMin ∨ Config.cidrMax < c then .error .cidr else .ok (leadingOnes c)

/-- The source's `cidr_from_mask`: the set bits of a valid mask are counted; an invalid one delivers no count (R65). -/
def cidrFromMask (m : Word) : Except Failure Word :=
  (validateMask m).map fun _ => BitVec.ofNat 32 (popcount m)

/-- C2M: the mask for C into R0 (R63). -/
def execC2m (s : State) : Host.Outcome State Fault Refusal :=
  .next (finish ((maskFromCidr (cidrOperand s)).map fun m => ({ r0 := m } : Results)) s)

/-- M2C: the prefix length of M into RC (R65). -/
def execM2c (s : State) : Host.Outcome State Fault Refusal :=
  .next (finish ((cidrFromMask (maskOperand s)).map fun n => ({ rc := n } : Results)) s)

end Sys2Proof.Machine
end

