-- ==== Sys2Proof/Machine/Derivation.lean ====
section
/-! DEFINITION. The AND and OR datapaths, NETID and BCAST (spec/42_derivation.md). -/

namespace Sys2Proof.Machine

/-- The AND datapath: host positions zeroed (R68). -/
def networkIdBits (a m : Word) : Word := a &&& m

/-- The OR datapath: host positions forced to 1, by the source's own formula (R70, C7). -/
def broadcastBits (a m : Word) : Word := (a &&& m) ||| ~~~m

/-- The source's `network_id`: the mask is validated first (R68). -/
def networkId (a m : Word) : Except Failure Word :=
  (validateMask m).map fun _ => networkIdBits a m

/-- The source's `broadcast`: the mask is validated first (R70). -/
def broadcast (a m : Word) : Except Failure Word :=
  (validateMask m).map fun _ => broadcastBits a m

/-- NETID: the network id of A under M into R0 (R68). -/
def execNetid (s : State) : Host.Outcome State Fault Refusal :=
  .next (finish ((networkId (addressOperand s) (maskOperand s)).map fun n => ({ r0 := n } : Results)) s)

/-- BCAST: the broadcast address of A under M into R0 (R70). -/
def execBcast (s : State) : Host.Outcome State Fault Refusal :=
  .next (finish ((broadcast (addressOperand s) (maskOperand s)).map fun b => ({ r0 := b } : Results)) s)

end Sys2Proof.Machine
end

