-- ==== Sys2Proof/Machine/Construction.lean ====
section
/-! DEFINITION. The Address value, the host-address validator and the constructions, MKADDR and MKADDRC
(spec/43_address_construction.md). -/

namespace Sys2Proof.Machine

/-- The source's Address: two fields and nothing else. The host flag is no part of it (R14, R16), and its equality is
bit for bit (R17). -/
structure Address where
  addressBits : Word
  maskBits : Word
deriving DecidableEq, Repr

/-- The host-address validator: two comparators, the network id tested first (R75). -/
def validateHost (a m : Word) : Except Failure Unit :=
  if a = networkIdBits a m then .error .hostIsNetworkId
  else if a = broadcastBits a m then .error .hostIsBroadcast
  else .ok ()

/-- The source's construction protocol on (address, mask, `require_host`). Step 1, the length of the mask, is the width
of `Word` and always passes (R74, R81). -/
def construct (a m : Word) (requireHost : Bool) : Except Failure Address :=
  match validateMask m with
  | .error f => .error f
  | .ok _ =>
    match (if requireHost then validateHost a m else .ok ()) with
    | .error f => .error f
    | .ok _ => .ok { addressBits := a, maskBits := m }

/-- The CIDR-shaped construction: `mask_from_cidr` first, its failure propagated, then the protocol on the derived mask
(R73, R76). -/
def constructFromCidr (a : Word) (c : Int) (requireHost : Bool) : Except Failure Address :=
  match maskFromCidr c with
  | .error f => .error f
  | .ok m => construct a m requireHost

/-- Where an Address stands in the block: `address_bits` in R0, `mask_bits` in R1 (R14). -/
def Address.results (x : Address) : Results := { r0 := x.addressBits, r1 := x.maskBits }

/-- MKADDR (R74). -/
def execMkaddr (requireHost : Bool) (s : State) : Host.Outcome State Fault Refusal :=
  .next (finish ((construct (addressOperand s) (maskOperand s) requireHost).map Address.results) s)

/-- MKADDRC; M is neither read nor written (R76). -/
def execMkaddrc (requireHost : Bool) (s : State) : Host.Outcome State Fault Refusal :=
  .next (finish ((constructFromCidr (addressOperand s) (cidrOperand s) requireHost).map Address.results) s)

end Sys2Proof.Machine
end

