-- ==== Sys2Proof/Machine/Dispatch.lean ====
section
/-! DEFINITION. One arm per command. -/

namespace Sys2Proof.Machine

def exec (i : Instr) (s : State) : Host.Outcome State Fault Refusal :=
  match i with
  | .vmask => Sys2Proof.Machine.execVmask s
  | .c2m => Sys2Proof.Machine.execC2m s
  | .m2c => Sys2Proof.Machine.execM2c s
  | .netid => Sys2Proof.Machine.execNetid s
  | .bcast => Sys2Proof.Machine.execBcast s
  | .mkaddr h => Sys2Proof.Machine.execMkaddr h s
  | .mkaddrc h => Sys2Proof.Machine.execMkaddrc h s

end Sys2Proof.Machine
end

