-- ==== Sys2Proof/Machine/HostInterface.lean ====
section
/-! DEFINITION. The host's three actions (spec/20_memory.md). Each is one atomic step (R31), performed in the order the
host issued them (R36). -/

namespace Sys2Proof.Machine

/-- A command word written to CMD: a legal word runs its command, any other fails with `ERR_ILLEGAL` before any operand
is read (R46, R82). The word itself is not stored (R41). -/
def runCommandWord (w : Word) (s : State) : Host.Outcome State Fault Refusal :=
  match decode w with
  | .ok i => exec i s
  | .error _ => .next (finishFail .illegal s)

/-- `HostWrite(idx, v)` (R32). -/
def hostWrite (idx : RegIndex) (v : Word) (s : State) : Host.Outcome State Fault Refusal :=
  match regOfIndex idx with
  | .cmd => runCommandWord v s
  | r => .next (storeReg r v s)

/-- The word `HostRead(idx)` returns; the read changes no register (R33, R38). -/
def hostRead (idx : RegIndex) (s : State) : Word := readReg (regOfIndex idx) s

/-- One host action on the block (R31). -/
def performAction (act : HostAction) (s : State) : Host.Outcome State Fault Refusal :=
  match act with
  | .reset => .next (resetRegisters s)
  | .write idx v => hostWrite idx v s
  | .read idx => .next (observe (hostRead idx s) s)

/-- The next pending action is taken off the list and performed. With none pending the block awaits the host and nothing
changes (R31, R53, R109; assumption 2). -/
def performNext (s : State) : Host.Outcome State Fault Refusal :=
  match s.pending with
  | [] => .next s
  | act :: rest => performAction act { s with pending := rest }

end Sys2Proof.Machine
end

