-- ==== Sys2Proof/Machine/Step.lean ====
section
/-! DEFINITION. One step of the block: one host action (R31). -/

namespace Sys2Proof.Machine

/-- One step: the next host action, performed whole (R31, R36). -/
def step (s : State) : Host.Outcome State Fault Refusal := performNext s

/-- `s` with the command word handed over next: the block fetches nothing (R41), a command runs because the host writes
its word to CMD (R22), so the word becomes the next pending host action (assumption 3). -/
def State.withFetchWord (s : State) (nbits w : Nat) : State :=
  { s with pending := .write (indexOfReg .cmd) (tableWord nbits w) :: s.pending }

end Sys2Proof.Machine
end

