-- ==== Sys2Proof/Machine/Transcript.lean ====
section
/-! DEFINITION. The spec's own way of writing sequences of host actions (R50 to R52). It is a means of writing test
vectors and has no effect on the block. -/

namespace Sys2Proof.Machine

/-- `ip(a,b,c,d)`: the word of four octets (R50, R13). -/
def ip (o0 o1 o2 o3 : Octet) : Word := octetsToBits { o0 := o0, o1 := o1, o2 := o2, o3 := o3 }

/-- A decimal constant written to C as its two's-complement word (R50). -/
def intConst (n : Int) : Word := BitVec.ofInt 32 n

/-- `hwr <reg>, <const>` (R50). -/
def hwr (r : Reg) (v : Word) : HostAction := .write (indexOfReg r) v

/-- `hrd <reg>` (R50). -/
def hrd (r : Reg) : HostAction := .read (indexOfReg r)

/-- `cmd <MNEMONIC>`, with `.H` for the host flag: a write of the command's word to CMD (R51). -/
def cmd (i : Instr) : HostAction := hwr .cmd (encode i)

/-- `mv <dst>, <src>`: two steps of the host, a read of `src` and a write to `dst` of the value read, here in the state
in which the host begins (R51). -/
def mv (dst src : Reg) (s : State) : List HostAction := [hrd src, hwr dst (readReg src s)]

/-- A hexadecimal digit, capital letters as in the spec's tables. -/
def hexDigit (d : BitVec 4) : Char :=
  if d.toNat < 10 then Char.ofNat (48 + d.toNat) else Char.ofNat (55 + d.toNat)

/-- Eight hexadecimal digits, the most significant first (R52). -/
def hexWord (v : Word) : List Char :=
  [28, 24, 20, 16, 12, 8, 4, 0].map fun k => hexDigit (v.extractLsb' k 4)

/-- The transcription of a host action: `RST`, `W idx vvvvvvvv` or `R idx` (R52). -/
def transcribe : HostAction → List Char
  | .reset => ['R', 'S', 'T']
  | .write idx v => ['W', ' ', hexDigit (idx.setWidth 4), ' '] ++ hexWord v
  | .read idx => ['R', ' ', hexDigit (idx.setWidth 4)]

end Sys2Proof.Machine
end

