-- ==== Sys2Proof/Safety.lean ====
section
/-! DEFINITION. The terms in which claims about the block are made: the spec's own descriptions of a valid mask, written
apart from the checker, what each command reads and can end with, and what every state of a run satisfies. -/

namespace Sys2Proof.Machine

/-- R15's formal condition: there is no `i` in 0 to 30 with `m{i}` = 0 and `m{i+1}` = 1, where `m{i}` is word bit
`31-i` (R11). -/
def Contiguous (m : Word) : Prop :=
  ∀ i, i < 31 → ¬(m.getLsbD (31 - i) = false ∧ m.getLsbD (31 - (i + 1)) = true)

/-- The valid mask /p, `p` leading ones, by its unsigned number (R15, R64). -/
def prefixMask (p : Nat) : Word := BitVec.ofNat 32 (2 ^ 32 - 2 ^ (32 - p))

/-- C read as a signed integer lies outside the accepted range (R63). -/
def CidrOutOfRange (c : Word) : Prop := c.toInt < 1 ∨ 30 < c.toInt

/-- The two states hold the same operands. -/
abbrev SameOperands (s t : State) : Prop := s.a = t.a ∧ s.m = t.m ∧ s.c = t.c

/-- The two states hold the same outcome: ST and the three result registers. -/
abbrev SameOutcome (s t : State) : Prop := s.st = t.st ∧ s.r0 = t.r0 ∧ s.r1 = t.r1 ∧ s.rc = t.rc

/-- The commands that read A (R47). -/
def readsA : Instr → Bool
  | .vmask => false
  | .c2m => false
  | .m2c => false
  | .netid => true
  | .bcast => true
  | .mkaddr _ => true
  | .mkaddrc _ => true

/-- The commands that read M (R47). -/
def readsM : Instr → Bool
  | .vmask => true
  | .c2m => false
  | .m2c => true
  | .netid => true
  | .bcast => true
  | .mkaddr _ => true
  | .mkaddrc _ => false

/-- The commands that read C (R47). -/
def readsC : Instr → Bool
  | .vmask => false
  | .c2m => true
  | .m2c => false
  | .netid => false
  | .bcast => false
  | .mkaddr _ => false
  | .mkaddrc _ => true

/-- The failure matrix: the codes a legal command can end with (R88). -/
def possibleCodes : Instr → List StatusCode
  | .vmask => [1, 4]
  | .c2m => [1, 5]
  | .m2c => [1, 4]
  | .netid => [1, 4]
  | .bcast => [1, 4]
  | .mkaddr false => [1, 4]
  | .mkaddr true => [1, 4, 6, 7]
  | .mkaddrc false => [1, 5]
  | .mkaddrc true => [1, 5, 6, 7]

/-- ST holds a code the block writes: 0, 1 or 4 to 8, never 2 or 3 and never above 8 (R80, R81). -/
abbrev StatusWritable (s : State) : Prop := s.st ∈ ([0, 1, 4, 5, 6, 7, 8] : List StatusCode)

/-- The result registers are zero unless the last command succeeded (R29, R33, R83). -/
abbrev ResultsOnlyOnSuccess (s : State) : Prop := s.st ≠ 1 → s.r0 = 0 ∧ s.r1 = 0 ∧ s.rc = 0

/-- RC is a prefix length, 0 to 32 (R26). -/
abbrev PrefixLengthBounded (s : State) : Prop := s.rc.toNat ≤ 32

/-- R1 is zero or the mask of a constructed Address, a valid mask either way (R25, R77). -/
abbrev SecondResultContiguous (s : State) : Prop := Contiguous s.r1

/-- A field result and an integer result never stand together (R24, R25, R26). -/
abbrev OneKindOfResult (s : State) : Prop := s.rc ≠ 0 → s.r0 = 0 ∧ s.r1 = 0

/-- What every state of a run satisfies. -/
abbrev Consistent (s : State) : Prop :=
  StatusWritable s ∧ ResultsOnlyOnSuccess s ∧ PrefixLengthBounded s ∧ SecondResultContiguous s ∧ OneKindOfResult s

/-- A host action that neither resets the block nor issues a command: a read, a write of an operand register or an
ignored write. -/
def leavesOutcome : HostAction → Bool
  | .reset => false
  | .write idx _ => idx != 3
  | .read _ => true

/-- A host action that neither resets the block nor writes the register at `idx`. -/
def leavesOperand (idx : RegIndex) : HostAction → Bool
  | .reset => false
  | .write j _ => j != idx
  | .read _ => true

/-- The reads of a sequence of host actions. -/
def isRead : HostAction → Bool
  | .reset => false
  | .write _ _ => false
  | .read _ => true

/-- A run of `n` steps, the host's own (R109). -/
def run (n : Nat) (s : State) : Host.Outcome State Fault Refusal := Host.Core.run Sys2Proof.core n s

end Sys2Proof.Machine
end

