-- ==== Sys2Proof/WellFormed.lean ====
section
/-! DEFINITION. Well-formedness of commands and of command words (R45, R46). -/

namespace Sys2Proof

/-- Every term of `Instr` is a command of the block: the operands are fixed registers (R48) and both values of the
host flag are legal where the flag exists (R45), so there is no operand left to check. -/
def Instr.wellFormed : Instr → Bool
  | .vmask => true
  | .c2m => true
  | .m2c => true
  | .netid => true
  | .bcast => true
  | .mkaddr _ => true
  | .mkaddrc _ => true

/-- Bits 31:5 of a command word are zero (R45). -/
def reservedBitsClear (w : Word) : Bool := w.toNat < 32

/-- The opcode, bits 3:0, is one of 1 to 7 (R46, R47). -/
def opcodeAssigned (w : Word) : Bool := 1 ≤ w.toNat % 16 && w.toNat % 16 ≤ 7

/-- The host flag, bit 4, is clear unless the opcode is 6 or 7 (R45). -/
def hostFlagAllowed (w : Word) : Bool := w.toNat / 16 % 2 = 0 || 6 ≤ w.toNat % 16

/-- A legal command word: the three tests of R46 on the word's number, written apart from the decoder. -/
def commandWordLegal (w : Word) : Bool :=
  reservedBitsClear w && opcodeAssigned w && hostFlagAllowed w

end Sys2Proof
end

