-- ==== Sys2Proof/Certificates/Slice0/Obligations.lean ====
section
/-! DEFINITION. The statements for the provers. In every statement about a command the next state is written as the old
one with the fields the command writes, so that the statement holds the command's frame: A, M, C and the host's side
are as before. The block has no memory (R30), so no frame speaks of one. The host's actions stand in `pending`, the next
one first (assumption 1), and the values its reads have returned stand in `observed` (assumption 4). -/

open Sys2Proof Sys2Proof.Machine

/-! ### Encoding (spec/30_encoding.md) -/

/-- A few command words of R46 decode to the commands R47 gives them, and a few illegal ones to none. -/
def Obligations.SampleWordsDecode : Prop :=
  decodeTableWord 32 0x00000001 = some .vmask ∧ decodeTableWord 32 0x00000005 = some .bcast ∧
  decodeTableWord 32 0x00000016 = some (.mkaddr true) ∧ decodeTableWord 32 0x00000007 = some (.mkaddrc false) ∧
  decodeTableWord 32 0x00000000 = none ∧ decodeTableWord 32 0x00000011 = none ∧
  decodeTableWord 32 0x00000026 = none

/-- R46: the three tests on the word's fields decide legality, and exactly nine words are legal. -/
def Obligations.NineLegalCommandWords : Prop :=
  ∀ w : Word,
    ((∃ i, decode w = .ok i) ↔
      w ∈ ([0x1, 0x2, 0x3, 0x4, 0x5, 0x6, 0x16, 0x7, 0x17] : List Word)) ∧
    ((∃ i, decode w = .ok i) ↔
      ¬(w.toNat / 32 ≠ 0 ∨ w.toNat % 16 = 0 ∨ 8 ≤ w.toNat % 16 ∨
        (w.toNat / 16 % 2 = 1 ∧ 1 ≤ w.toNat % 16 ∧ w.toNat % 16 ≤ 5))) ∧
    ((∃ i, decode w = .ok i) ↔ commandWordLegal w = true)

/-- Decode and encode agree in both directions on every word and every command. -/
def Obligations.DecodeInvertsEncode : Prop :=
  ∀ (w : Word) (i : Instr), i.wellFormed = true → (decode w = .ok i ↔ w = encode i)

/-- Each row of the opcode table, by its mask and match, selects exactly its command with `H` = bit 4 (R47). -/
def Obligations.TableRowsSelectTheirCommands : Prop :=
  ∀ w : Word,
    (w &&& 0xFFFFFFFF = 0x1 ↔ decode w = .ok .vmask) ∧
    (w &&& 0xFFFFFFFF = 0x2 ↔ decode w = .ok .c2m) ∧
    (w &&& 0xFFFFFFFF = 0x3 ↔ decode w = .ok .m2c) ∧
    (w &&& 0xFFFFFFFF = 0x4 ↔ decode w = .ok .netid) ∧
    (w &&& 0xFFFFFFFF = 0x5 ↔ decode w = .ok .bcast) ∧
    (w &&& 0xFFFFFFEF = 0x6 ↔ decode w = .ok (.mkaddr (w.getLsbD 4))) ∧
    (w &&& 0xFFFFFFEF = 0x7 ↔ decode w = .ok (.mkaddrc (w.getLsbD 4)))

/-- R49: an illegal word, by its fields, fails with `ERR_ILLEGAL`, whatever the operands, and changes nothing but ST and
the result registers. -/
def Obligations.IllegalWordFailsWithCodeEight : Prop :=
  ∀ (s : State) (w : Word) (rest : List HostAction),
    s.pending = .write 3 w :: rest →
    (w.extractLsb' 5 27 ≠ 0 ∨ (w.extractLsb' 0 4).toNat = 0 ∨ 8 ≤ (w.extractLsb' 0 4).toNat ∨
      (w.getLsbD 4 = true ∧ 1 ≤ (w.extractLsb' 0 4).toNat ∧ (w.extractLsb' 0 4).toNat ≤ 5)) →
    step s = .next { s with pending := rest, st := 8, r0 := 0, r1 := 0, rc := 0 }

/-- R51: `cmd <MNEMONIC>` is the host write of the listed word to CMD. -/
def Obligations.CommandNotationWritesListedWords : Prop :=
  cmd .vmask = .write 3 0x00000001 ∧ cmd .c2m = .write 3 0x00000002 ∧ cmd .m2c = .write 3 0x00000003 ∧
  cmd .netid = .write 3 0x00000004 ∧ cmd .bcast = .write 3 0x00000005 ∧
  cmd (.mkaddr false) = .write 3 0x00000006 ∧ cmd (.mkaddrc false) = .write 3 0x00000007 ∧
  cmd (.mkaddr true) = .write 3 0x00000016 ∧ cmd (.mkaddrc true) = .write 3 0x00000017

/-! ### Value types (spec/10_state.md) -/

/-- R11: the word view of a field. -/
def Obligations.FieldIndexIsReversedWordBit : Prop :=
  ∀ x : Word,
    (∀ i, i < 32 → fieldBit x i = x.getLsbD (31 - i)) ∧
    x.toNat = ((List.range 32).map fun i => (fieldBit x i).toNat * 2 ^ (31 - i)).sum ∧
    (bitsToOctets x).o0.toNat = x.toNat / 2 ^ 24 ∧ (bitsToOctets x).o3.toNat = x.toNat % 2 ^ 8

/-- R12: the octet lanes, by their weights and as slices of the word. -/
def Obligations.OctetsAreWeightedFieldBits : Prop :=
  ∀ x : Word,
    (bitsToOctets x).o0.toNat = ((List.range 8).map fun j => (fieldBit x j).toNat * 2 ^ (7 - j)).sum ∧
    (bitsToOctets x).o1.toNat = ((List.range 8).map fun j => (fieldBit x (8 + j)).toNat * 2 ^ (7 - j)).sum ∧
    (bitsToOctets x).o2.toNat = ((List.range 8).map fun j => (fieldBit x (16 + j)).toNat * 2 ^ (7 - j)).sum ∧
    (bitsToOctets x).o3.toNat = ((List.range 8).map fun j => (fieldBit x (24 + j)).toNat * 2 ^ (7 - j)).sum ∧
    (bitsToOctets x).o0 = x.extractLsb' 24 8 ∧ (bitsToOctets x).o1 = x.extractLsb' 16 8 ∧
    (bitsToOctets x).o2 = x.extractLsb' 8 8 ∧ (bitsToOctets x).o3 = x.extractLsb' 0 8

/-- R13: joining four octets, its number and its bits, and that the two conversions are inverse to each other. -/
def Obligations.OctetConversionsAreInverse : Prop :=
  (∀ x : Word, octetsToBits (bitsToOctets x) = x) ∧
  ∀ o : OctetQuad,
    bitsToOctets (octetsToBits o) = o ∧
    (octetsToBits o).toNat = o.o0.toNat * 2 ^ 24 + o.o1.toNat * 2 ^ 16 + o.o2.toNat * 2 ^ 8 + o.o3.toNat ∧
    ∀ j, j < 8 →
      fieldBit (octetsToBits o) j = o.o0.getLsbD (7 - j) ∧
      fieldBit (octetsToBits o) (8 + j) = o.o1.getLsbD (7 - j) ∧
      fieldBit (octetsToBits o) (16 + j) = o.o2.getLsbD (7 - j) ∧
      fieldBit (octetsToBits o) (24 + j) = o.o3.getLsbD (7 - j)

/-! ### Mask validation (spec/40_mask_validation.md) -/

/-- R60: VMASK and its word. -/
def Obligations.VmaskJudgesContiguity : Prop :=
  decode 0x00000001 = .ok .vmask ∧
  ∀ s : State,
    (Contiguous s.m → exec .vmask s = .next { s with st := 1, r0 := 0, r1 := 0, rc := 0 }) ∧
    (¬Contiguous s.m → exec .vmask s = .next { s with st := 4, r0 := 0, r1 := 0, rc := 0 })

/-- R61: the checker's verdict on the register word: the word of bad pairs, its bits, and the 33 valid masks. -/
def Obligations.VmaskVerdictOnTheWord : Prop :=
  ∀ s : State, ∃ t, exec .vmask s = .next t ∧
    (t.st = 4 ↔ ((~~~s.m) >>> 1) &&& s.m ≠ 0) ∧
    (t.st = 4 ↔ ∃ n, n < 31 ∧ s.m.getLsbD (n + 1) = false ∧ s.m.getLsbD n = true) ∧
    (t.st = 1 ↔ ∃ p, p ≤ 32 ∧ s.m = prefixMask p) ∧
    (∀ n, n < 31 → (((~~~s.m) >>> 1) &&& s.m).getLsbD n = (!s.m.getLsbD (n + 1) && s.m.getLsbD n)) ∧
    (((~~~s.m) >>> 1) &&& s.m).getLsbD 31 = false

/-- R15: exactly 33 words are valid masks, one for each number of leading ones. -/
def Obligations.ValidMasksAreTheThirtyThreePrefixes : Prop :=
  (∀ m : Word, maskValid m = true ↔ Contiguous m) ∧
  (∀ m : Word, Contiguous m ↔ ∃ p, p ≤ 32 ∧ m = prefixMask p) ∧
  (∀ p q, p ≤ 32 → q ≤ 32 → prefixMask p = prefixMask q → p = q) ∧
  (∀ p i, p ≤ 32 → i < 32 → (prefixMask p).getLsbD (31 - i) = decide (i < p))

/-- R62: the three properties of the checker that the source states. -/
def Obligations.CheckerProperties : Prop :=
  (∀ s : State, ∃ t, exec .vmask s = .next t ∧
    (t.st ≠ 1 ↔ ∃ i, i < 31 ∧ s.m.getLsbD (31 - i) = false ∧ s.m.getLsbD (31 - (i + 1)) = true)) ∧
  (∀ s : State, 1 ≤ s.c.toInt → s.c.toInt ≤ 30 →
    ∃ t u, exec .c2m s = .next t ∧ exec .vmask { t with m := t.r0 } = .next u ∧ t.st = 1 ∧ u.st = 1) ∧
  (∀ s : State, s.m = 0xAAAAAAAA → ∃ t, exec .vmask s = .next t ∧ t.st = 4)

/-! ### The converters (spec/41_cidr_conversion.md) -/

/-- R63: C2M and its word, the mask given position by position. -/
def Obligations.C2mBuildsTheLeadingOnes : Prop :=
  decode 0x00000002 = .ok .c2m ∧
  ∀ s : State,
    (1 ≤ s.c.toInt → s.c.toInt ≤ 30 →
      ∃ r : Word, (∀ i, i < 32 → r.getLsbD (31 - i) = decide ((i : Int) < s.c.toInt)) ∧ Contiguous r ∧
        exec .c2m s = .next { s with st := 1, r0 := r, r1 := 0, rc := 0 }) ∧
    (CidrOutOfRange s.c → exec .c2m s = .next { s with st := 5, r0 := 0, r1 := 0, rc := 0 })

/-- R64: the same result on the register word, and the range test on C as an unsigned word. -/
def Obligations.C2mWordForms : Prop :=
  (∀ (s : State) (c : Nat), 1 ≤ c → c ≤ 30 → s.c = BitVec.ofNat 32 c →
    ∃ t, exec .c2m s = .next t ∧ t.r0 = 0xFFFFFFFF#32 <<< (32 - c) ∧ t.r0 = ~~~(0xFFFFFFFF#32 >>> c) ∧
      t.r0.toNat = 2 ^ 32 - 2 ^ (32 - c)) ∧
  ∀ s : State, ∃ t, exec .c2m s = .next t ∧ (t.st = 5 ↔ s.c.toNat = 0 ∨ 30 < s.c.toNat)

/-- R65: M2C and its word; the count is of the set bits, 0 to 32, and an invalid mask delivers none. -/
def Obligations.M2cCountsTheOnesOfAValidMask : Prop :=
  decode 0x00000003 = .ok .m2c ∧
  ∀ s : State,
    (Contiguous s.m →
      ∃ r : Word, r.toNat = ((List.range 32).filter fun n => s.m.getLsbD n).length ∧ r.toNat ≤ 32 ∧
        exec .m2c s = .next { s with st := 1, r0 := 0, r1 := 0, rc := r }) ∧
    (¬Contiguous s.m → exec .m2c s = .next { s with st := 4, r0 := 0, r1 := 0, rc := 0 })

/-- Conflict C2: on a valid mask the count is the number of leading ones. -/
def Obligations.M2cReturnsThePrefixLength : Prop :=
  ∀ (s : State) (p : Nat), p ≤ 32 → s.m = prefixMask p →
    exec .m2c s = .next { s with st := 1, r0 := 0, r1 := 0, rc := BitVec.ofNat 32 p }

/-- R66: the round trip of the converters, that what C2M makes is valid, where they are not inverse, and the way back. -/
def Obligations.ConvertersRoundTrip : Prop :=
  (∀ s : State, 1 ≤ s.c.toInt → s.c.toInt ≤ 30 →
    ∃ t u v, exec .c2m s = .next t ∧ exec .m2c { t with m := t.r0 } = .next u ∧
      exec .vmask { t with m := t.r0 } = .next v ∧ t.st = 1 ∧ u.st = 1 ∧ u.rc = s.c ∧ v.st = 1) ∧
  (∀ (s : State) (p : Nat), p = 0 ∨ p = 31 ∨ p = 32 → s.m = prefixMask p →
    ∃ t u, exec .m2c s = .next t ∧ exec .c2m { t with c := t.rc } = .next u ∧
      t.st = 1 ∧ t.rc = BitVec.ofNat 32 p ∧ u.st = 5) ∧
  (∀ s : State, Contiguous s.m →
    ∃ t u, exec .m2c s = .next t ∧ exec .c2m { t with c := t.rc } = .next u ∧
      (1 ≤ t.rc.toNat → t.rc.toNat ≤ 30 → u.st = 1 ∧ u.r0 = s.m))

/-! ### The derivations (spec/42_derivation.md) -/

/-- R68: NETID and its word, position by position. -/
def Obligations.NetidMasksTheAddress : Prop :=
  decode 0x00000004 = .ok .netid ∧
  ∀ s : State,
    (Contiguous s.m →
      ∃ r : Word,
        (∀ i, i < 32 → r.getLsbD (31 - i) = (s.a.getLsbD (31 - i) && s.m.getLsbD (31 - i))) ∧
        exec .netid s = .next { s with st := 1, r0 := r, r1 := 0, rc := 0 }) ∧
    (¬Contiguous s.m → exec .netid s = .next { s with st := 4, r0 := 0, r1 := 0, rc := 0 })

/-- R69: NETID is idempotent, zeroes the host positions, keeps the network positions, and depends on A and M only. -/
def Obligations.NetidProperties : Prop :=
  ∀ s : State, Contiguous s.m →
    ∃ t u, exec .netid s = .next t ∧ exec .netid { t with a := t.r0 } = .next u ∧
      t.st = 1 ∧ u.st = 1 ∧ u.r0 = t.r0 ∧
      (∀ i, i < 32 → s.m.getLsbD (31 - i) = false → t.r0.getLsbD (31 - i) = false) ∧
      (∀ i, i < 32 → s.m.getLsbD (31 - i) = true → t.r0.getLsbD (31 - i) = s.a.getLsbD (31 - i)) ∧
      ∀ s' : State, s'.a = s.a → s'.m = s.m → ∃ t', exec .netid s' = .next t' ∧ SameOutcome t' t

/-- R70: BCAST and its word, position by position. -/
def Obligations.BcastForcesTheHostBits : Prop :=
  decode 0x00000005 = .ok .bcast ∧
  ∀ s : State,
    (Contiguous s.m →
      ∃ r : Word,
        (∀ i, i < 32 →
          r.getLsbD (31 - i) = ((s.a.getLsbD (31 - i) && s.m.getLsbD (31 - i)) || !s.m.getLsbD (31 - i))) ∧
        exec .bcast s = .next { s with st := 1, r0 := r, r1 := 0, rc := 0 }) ∧
    (¬Contiguous s.m → exec .bcast s = .next { s with st := 4, r0 := 0, r1 := 0, rc := 0 })

/-- R71: fixed bits and host bits of the broadcast address, the single OR, idempotence, and how it lies to the network
id. -/
def Obligations.BcastProperties : Prop :=
  ∀ s : State, Contiguous s.m →
    ∃ t u n, exec .bcast s = .next t ∧ exec .bcast { t with a := t.r0 } = .next u ∧ exec .netid s = .next n ∧
      t.st = 1 ∧ u.st = 1 ∧ n.st = 1 ∧
      (∀ i, i < 32 → s.m.getLsbD (31 - i) = true →
        t.r0.getLsbD (31 - i) = (s.a.getLsbD (31 - i) && s.m.getLsbD (31 - i)) ∧
        t.r0.getLsbD (31 - i) = n.r0.getLsbD (31 - i)) ∧
      (∀ i, i < 32 → s.m.getLsbD (31 - i) = false →
        t.r0.getLsbD (31 - i) = true ∧ n.r0.getLsbD (31 - i) = false) ∧
      t.r0 = s.a ||| ~~~s.m ∧ t.r0 = n.r0 ||| ~~~s.m ∧ u.r0 = t.r0 ∧ (t.r0 = n.r0 ↔ s.m = 0xFFFFFFFF)

/-! ### Construction (spec/43_address_construction.md) -/

/-- R74: MKADDR and its two words, the tests in their order. -/
def Obligations.MkaddrConstructsFromMask : Prop :=
  decode 0x00000006 = .ok (.mkaddr false) ∧ decode 0x00000016 = .ok (.mkaddr true) ∧
  ∀ s : State,
    (∀ h, ¬Contiguous s.m → exec (.mkaddr h) s = .next { s with st := 4, r0 := 0, r1 := 0, rc := 0 }) ∧
    (Contiguous s.m → exec (.mkaddr false) s = .next { s with st := 1, r0 := s.a, r1 := s.m, rc := 0 }) ∧
    (Contiguous s.m → s.a = s.a &&& s.m →
      exec (.mkaddr true) s = .next { s with st := 6, r0 := 0, r1 := 0, rc := 0 }) ∧
    (Contiguous s.m → s.a ≠ s.a &&& s.m → s.a = (s.a &&& s.m) ||| ~~~s.m →
      exec (.mkaddr true) s = .next { s with st := 7, r0 := 0, r1 := 0, rc := 0 }) ∧
    (Contiguous s.m → s.a ≠ s.a &&& s.m → s.a ≠ (s.a &&& s.m) ||| ~~~s.m →
      exec (.mkaddr true) s = .next { s with st := 1, r0 := s.a, r1 := s.m, rc := 0 })

/-- R75: the validator's two verdicts bit by bit, and when both comparators hold. -/
def Obligations.HostValidatorLooksAtHostPositions : Prop :=
  ∀ s : State, Contiguous s.m →
    ∃ t, exec (.mkaddr true) s = .next t ∧
      (t.st = 6 ↔ ∀ i, i < 32 → s.m.getLsbD (31 - i) = false → s.a.getLsbD (31 - i) = false) ∧
      (t.st = 7 ↔ s.m ≠ 0xFFFFFFFF ∧
        ∀ i, i < 32 → s.m.getLsbD (31 - i) = false → s.a.getLsbD (31 - i) = true) ∧
      (t.st = 1 ↔ s.a &&& ~~~s.m ≠ 0 ∧ ~~~s.a &&& ~~~s.m ≠ 0) ∧
      ((s.a = s.a &&& s.m ∧ s.a = (s.a &&& s.m) ||| ~~~s.m) ↔ s.m = 0xFFFFFFFF)

/-- R76: MKADDRC and its two words, the tests in their order; `m` is the derived mask. -/
def Obligations.MkaddrcConstructsFromPrefixLength : Prop :=
  decode 0x00000007 = .ok (.mkaddrc false) ∧ decode 0x00000017 = .ok (.mkaddrc true) ∧
  (∀ (s : State) (h : Bool), CidrOutOfRange s.c →
    exec (.mkaddrc h) s = .next { s with st := 5, r0 := 0, r1 := 0, rc := 0 }) ∧
  ∀ s : State, 1 ≤ s.c.toInt → s.c.toInt ≤ 30 →
    ∃ m : Word, (∀ i, i < 32 → m.getLsbD (31 - i) = decide ((i : Int) < s.c.toInt)) ∧
      exec (.mkaddrc false) s = .next { s with st := 1, r0 := s.a, r1 := m, rc := 0 } ∧
      (s.a = s.a &&& m → exec (.mkaddrc true) s = .next { s with st := 6, r0 := 0, r1 := 0, rc := 0 }) ∧
      (s.a = (s.a &&& m) ||| ~~~m →
        exec (.mkaddrc true) s = .next { s with st := 7, r0 := 0, r1 := 0, rc := 0 }) ∧
      (s.a ≠ s.a &&& m → s.a ≠ (s.a &&& m) ||| ~~~m →
        exec (.mkaddrc true) s = .next { s with st := 1, r0 := s.a, r1 := m, rc := 0 })

/-- R77: what holds of a constructed Address. -/
def Obligations.ConstructedAddressInvariants : Prop :=
  (∀ (s : State) (h : Bool), ∃ t, exec (.mkaddr h) s = .next t ∧
    (t.st = 1 → Contiguous t.r1 ∧ t.r0 = s.a ∧ t.r1 = s.m ∧
      (h = true → t.r0 ≠ t.r0 &&& t.r1 ∧ t.r0 ≠ (t.r0 &&& t.r1) ||| ~~~t.r1))) ∧
  (∀ (s : State) (h : Bool), ∃ t, exec (.mkaddrc h) s = .next t ∧
    (t.st = 1 → Contiguous t.r1 ∧ t.r0 = s.a ∧ (∃ p, 1 ≤ p ∧ p ≤ 30 ∧ t.r1 = prefixMask p) ∧
      (h = true → t.r0 ≠ t.r0 &&& t.r1 ∧ t.r0 ≠ (t.r0 &&& t.r1) ||| ~~~t.r1))) ∧
  (∀ (s : State) (p : Nat), p ≤ 32 → s.m = prefixMask p →
    ∃ t, exec (.mkaddr false) s = .next t ∧ t.st = 1 ∧ t.r1 = prefixMask p) ∧
  ∀ (s : State) (p : Nat), 1 ≤ p → p ≤ 30 → s.c = BitVec.ofNat 32 p →
    ∃ t, exec (.mkaddrc false) s = .next t ∧ t.st = 1 ∧ t.r1 = prefixMask p

/-- R14: an Address just constructed, its two words copied to A and M, has its prefix length, network id and broadcast
address recomputed without a mask failure. -/
def Obligations.DerivedAttributesOfAnAddressAreAvailable : Prop :=
  ∀ (s : State) (i : Instr) (h : Bool), i = .mkaddr h ∨ i = .mkaddrc h →
    ∃ t, exec i s = .next t ∧
      (t.st = 1 →
        ∃ p n b,
          exec .m2c { t with a := t.r0, m := t.r1 } = .next p ∧
          exec .netid { t with a := t.r0, m := t.r1 } = .next n ∧
          exec .bcast { t with a := t.r0, m := t.r1 } = .next b ∧
          p.st = 1 ∧ n.st = 1 ∧ b.st = 1 ∧ t.r1 = prefixMask p.rc.toNat ∧
          (h = true → n.r0 ≠ t.r0 ∧ b.r0 ≠ t.r0))

/-! ### Failures (spec/60_exceptions.md) -/

/-- R83: what a failure and a success of any command word do, and all they do. -/
def Obligations.CommandEndsByFailureOrSuccess : Prop :=
  ∀ (s : State) (w : Word) (rest : List HostAction), s.pending = .write 3 w :: rest →
    ∃ t, step s = .next t ∧
      (t.st ≠ 1 → t = { s with pending := rest, st := t.st, r0 := 0, r1 := 0, rc := 0 }) ∧
      (t.st = 1 → t = { s with pending := rest, st := 1, r0 := t.r0, r1 := t.r1, rc := t.rc })

/-- R87: the one failure reported is the first that applies, in the fixed order. The mask of the host tests is M, or for
MKADDRC the derived mask. -/
def Obligations.FirstApplicableFailureIsReported : Prop :=
  (∀ (s : State) (w : Word) (rest : List HostAction) (e : IllegalWord),
    s.pending = .write 3 w :: rest → decode w = .error e → ∃ t, step s = .next t ∧ t.st = 8) ∧
  ∀ (s : State) (i : Instr), ∃ t, exec i s = .next t ∧
    (let m := if readsC i = true then prefixMask s.c.toNat else s.m
     let cidrFails := readsC i = true ∧ CidrOutOfRange s.c
     let maskFails := readsM i = true ∧ ¬Contiguous s.m
     let isNetworkId := i.hostFlag = true ∧ s.a = s.a &&& m
     let isBroadcast := i.hostFlag = true ∧ s.a = (s.a &&& m) ||| ~~~m
     (t.st = 5 ↔ cidrFails) ∧
     (t.st = 4 ↔ ¬cidrFails ∧ maskFails) ∧
     (t.st = 6 ↔ ¬cidrFails ∧ ¬maskFails ∧ isNetworkId) ∧
     (t.st = 7 ↔ ¬cidrFails ∧ ¬maskFails ∧ ¬isNetworkId ∧ isBroadcast) ∧
     (t.st = 1 ↔ ¬cidrFails ∧ ¬maskFails ∧ ¬isNetworkId ∧ ¬isBroadcast))

/-- R88: a command can end with exactly the codes of its row, and an illegal word with 8 only. -/
def Obligations.FailureMatrix : Prop :=
  (∀ (i : Instr) (k : StatusCode), (∃ s t, exec i s = .next t ∧ t.st = k) ↔ k ∈ possibleCodes i) ∧
  ∀ (s : State) (w : Word) (rest : List HostAction), s.pending = .write 3 w :: rest →
    ∃ t, step s = .next t ∧ (t.st = 8 ↔ commandWordLegal w = false)

/-! ### The registers (spec/10_state.md, spec/20_memory.md) -/

/-- R28: a command word rewrites ST, R0, R1 and RC as a function of the word and of A, M, C alone, writes nothing else,
and a later write of A, M or C leaves the four as they are. -/
def Obligations.OutcomeDependsOnOperandsAlone : Prop :=
  (∀ (s s' : State) (w : Word) (rest rest' : List HostAction),
    s.pending = .write 3 w :: rest → s'.pending = .write 3 w :: rest' → SameOperands s s' →
    ∃ t t', step s = .next t ∧ step s' = .next t' ∧ SameOutcome t t' ∧
      t = { s with pending := rest, st := t.st, r0 := t.r0, r1 := t.r1, rc := t.rc }) ∧
  ∀ (s : State) (idx : RegIndex) (v : Word) (rest : List HostAction),
    s.pending = .write idx v :: rest → idx = 0 ∨ idx = 1 ∨ idx = 2 → ∃ t, step s = .next t ∧ SameOutcome t s

/-- R47: a command's outcome does not depend on an operand register that it does not read. -/
def Obligations.UnreadOperandsHaveNoInfluence : Prop :=
  ∀ (i : Instr) (s s' : State),
    (readsA i = true → s.a = s'.a) → (readsM i = true → s.m = s'.m) → (readsC i = true → s.c = s'.c) →
    ∃ t t', exec i s = .next t ∧ exec i s' = .next t' ∧ SameOutcome t t'

/-- R32: `HostWrite` on each index; index 3 runs the command word. -/
def Obligations.HostWriteByIndex : Prop :=
  ∀ (s : State) (v : Word) (rest : List HostAction),
    (s.pending = .write 0 v :: rest → step s = .next { s with pending := rest, a := v }) ∧
    (s.pending = .write 1 v :: rest → step s = .next { s with pending := rest, m := v }) ∧
    (s.pending = .write 2 v :: rest → step s = .next { s with pending := rest, c := v }) ∧
    (s.pending = .write 3 v :: rest →
      (∀ i, decode v = .ok i → step s = exec i { s with pending := rest }) ∧
      (∀ e, decode v = .error e →
        step s = .next { s with pending := rest, st := 8, r0 := 0, r1 := 0, rc := 0 }) ∧
      ∃ t, step s = .next t ∧ SameOperands t s) ∧
    (∀ idx : RegIndex, 4 ≤ idx.toNat → s.pending = .write idx v :: rest →
      step s = .next { s with pending := rest })

/-- R33: `HostRead` on each index returns its register and changes no register; a result register read when the last
command did not succeed returns zero. -/
def Obligations.HostReadByIndex : Prop :=
  ∀ (s : State) (idx : RegIndex) (rest : List HostAction), s.pending = .read idx :: rest →
    step s = .next { s with
      pending := rest,
      observed := s.observed ++
        [(([s.a, s.m, s.c, 0, (0#28 ++ s.st : BitVec (28 + 4)), s.r0, s.r1, s.rc] : List Word)[idx.toNat]?).getD 0] } ∧
    (Consistent s → s.st ≠ 1 → 5 ≤ idx.toNat →
      step s = .next { s with pending := rest, observed := s.observed ++ [0] })

/-- R38: host reads and writes are idempotent, a command among them, and ignored writes have no effect. -/
def Obligations.HostAccessesAreIdempotent : Prop :=
  (∀ (s : State) (idx : RegIndex),
    ∃ v t, run 2 { s with pending := [.read idx, .read idx] } = .next t ∧
      t = { s with pending := [], observed := s.observed ++ [v, v] }) ∧
  (∀ (s : State) (idx : RegIndex) (v : Word),
    ∃ t, run 2 { s with pending := [.write idx v, .write idx v] } = .next t ∧
      run 1 { s with pending := [.write idx v] } = .next t) ∧
  ∀ (s : State) (idx : RegIndex) (v : Word), 4 ≤ idx.toNat →
    run 1 { s with pending := [.write idx v] } = .next { s with pending := [] }

/-- R19 to R21: an operand register changes only by `Reset` or by a host write of its own index. The step with nothing
pending is assumption 2. -/
def Obligations.OperandsAreWrittenByTheHostOnly : Prop :=
  ∀ s : State, ∃ t, step s = .next t ∧
    (t.a ≠ s.a → ∃ rest, s.pending = .reset :: rest ∨ s.pending = .write 0 t.a :: rest) ∧
    (t.m ≠ s.m → ∃ rest, s.pending = .reset :: rest ∨ s.pending = .write 1 t.m :: rest) ∧
    (t.c ≠ s.c → ∃ rest, s.pending = .reset :: rest ∨ s.pending = .write 2 t.c :: rest)

/-- R18, R23: ST and the result registers change only by `Reset` or by a command word. The step with nothing pending is
assumption 2. -/
def Obligations.OutcomeIsWrittenByCommandsAndResetOnly : Prop :=
  ∀ s : State, ∃ t, step s = .next t ∧
    (¬SameOutcome t s → ∃ rest, s.pending = .reset :: rest ∨ ∃ w, s.pending = .write 3 w :: rest)

/-- R105: a command reads A, M and C as they stand at its write to CMD, and afterwards reads and writes of other registers
than CMD, in any number, leave ST and the results of that command standing. -/
def Obligations.ResultsStayUntilTheNextCommand : Prop :=
  ∀ (s : State) (w : Word) (post : List HostAction), (∀ act ∈ post, leavesOutcome act = true) →
    ∃ t u, run 1 { s with pending := .write 3 w :: post } = .next t ∧
      run (1 + post.length) { s with pending := .write 3 w :: post } = .next u ∧
      SameOutcome u t ∧ ∀ i, decode w = .ok i → exec i { s with pending := post } = .next t

/-- R36 for the operand registers: a read returns the value of the latest earlier write, whatever other actions, commands
among them, stand between. -/
def Obligations.ReadReturnsTheLatestOperandWrite : Prop :=
  ∀ (s : State) (idx : RegIndex) (v : Word) (post : List HostAction),
    idx = 0 ∨ idx = 1 ∨ idx = 2 → (∀ act ∈ post, leavesOperand idx act = true) →
    ∃ t, run (post.length + 2)
        { s with pending := .write idx v :: (post ++ [.read idx]) } = .next t ∧
      t.observed.getLast? = some v

/-! ### Reset, runs and the whole machine (spec/70_reset_and_hazards.md) -/

/-- R29: after `Reset` every register reads zero. -/
def Obligations.ResetValues : Prop :=
  State.reset.a = 0 ∧ State.reset.m = 0 ∧ State.reset.c = 0 ∧ State.reset.st = 0 ∧ State.reset.r0 = 0 ∧
  State.reset.r1 = 0 ∧ State.reset.rc = 0 ∧ ∀ idx : RegIndex, hostRead idx State.reset = 0

/-- R100: `Reset`, at any time, writes every stored register with its reset value. -/
def Obligations.ResetWritesEveryRegister : Prop :=
  ∀ (s : State) (rest : List HostAction), s.pending = .reset :: rest →
    ∃ t, step s = .next t ∧ t.a = 0 ∧ t.m = 0 ∧ t.c = 0 ∧ t.st = 0 ∧ t.r0 = 0 ∧ t.r1 = 0 ∧ t.rc = 0

/-- The model's choice (assumption 5): `Reset` leaves the host's remaining actions and what the host has observed. -/
def Obligations.ResetLeavesTheHostSide : Prop :=
  ∀ (s : State) (rest : List HostAction), s.pending = .reset :: rest →
    step s = .next { State.reset with pending := rest, observed := s.observed }

/-- R102: the nine command words on the operands that reset leaves. -/
def Obligations.CommandsOnTheResetState : Prop :=
  exec .vmask State.reset = .next { State.reset with st := 1 } ∧
  exec .c2m State.reset = .next { State.reset with st := 5 } ∧
  exec .m2c State.reset = .next { State.reset with st := 1 } ∧
  exec .netid State.reset = .next { State.reset with st := 1 } ∧
  exec .bcast State.reset = .next { State.reset with st := 1, r0 := 0xFFFFFFFF } ∧
  exec (.mkaddr false) State.reset = .next { State.reset with st := 1 } ∧
  exec (.mkaddr true) State.reset = .next { State.reset with st := 6 } ∧
  exec (.mkaddrc false) State.reset = .next { State.reset with st := 5 } ∧
  exec (.mkaddrc true) State.reset = .next { State.reset with st := 5 }

/-- A step whose next host action writes a legal command word to CMD runs the decoded command on the state without that
action, and does nothing around it. -/
def Obligations.StepRunsTheDecodedCommand : Prop :=
  ∀ (s : State) (w : Word) (rest : List HostAction) (i : Instr),
    s.pending = .write 3 w :: rest → decode w = .ok i → i.wellFormed = true →
    step s = exec i { s with pending := rest }

/-- The word placed by `withFetchWord` is what the very next step runs (assumption 3, the model's choice). -/
def Obligations.PlacedWordRunsNext : Prop :=
  ∀ (s : State) (w : Nat) (i : Instr), decodeTableWord 32 w = some i → step (s.withFetchWord 32 w) = exec i s

/-- With no action pending nothing changes (assumption 2, read from R31). -/
def Obligations.IdleBlockDoesNothing : Prop :=
  ∀ s : State, s.pending = [] → step s = .next s

/-- The reset state satisfies what every state of a run satisfies. -/
def Obligations.ResetIsConsistent : Prop := Consistent State.reset

/-- Every step keeps it: ST holds a code the block writes, results stand only under `ST_OK`, RC is a prefix length, R1 is
a valid mask, and a field result and an integer result never stand together. The step with nothing pending is
assumption 2. -/
def Obligations.EveryStepKeepsConsistency : Prop :=
  ∀ s t : State, Consistent s → step s = .next t → Consistent t

/-- R109: every finite sequence of host actions runs to its end: each step answers a next state, the run takes one step
an action, and each read adds one value to what the host has observed before. The first clause also covers a state with
nothing pending, where R109 has no action to speak of: its idle step is the model's reading of R31 (assumption 2,
DEDUCED). -/
def Obligations.EverySequenceRunsToItsEnd : Prop :=
  (∀ s : State, ∃ t, step s = .next t) ∧
  ∀ s : State, ∃ t values, run s.pending.length s = .next t ∧
    t.pending = [] ∧ t.observed = s.observed ++ values ∧ values.length = s.pending.countP isRead
end

