-- ==== Sys2Proof/Laws/BitField.lean ====
section
/-! SUPPORT. What the field operations give, position by position. -/

namespace Sys2Proof.Machine

/-- The word bit behind a field index (R7). -/
theorem fieldBit_eq_getLsbD (x : Word) (i : Nat) (h : i < 32) : fieldBit x i = x.getLsbD (31 - i) := by
  simp [fieldBit, BitVec.getMsbD, h]

/-- Word bits of a prefix of a field: bit `n-1-i` is position `i`. -/
theorem fieldPrefix_getLsbD (f : Nat → Bool) (n k : Nat) :
    (fieldPrefix f n).getLsbD k = (decide (k < n) && f (n - 1 - k)) := by
  induction n generalizing k with
  | zero => simp [fieldPrefix]
  | succ n ih =>
    cases k with
    | zero => simp [fieldPrefix]
    | succ k =>
      have e : n + 1 - 1 - (k + 1) = n - 1 - k := by omega
      simp only [fieldPrefix, BitVec.getLsbD_concat_succ, ih, e]
      simp

/-- A field given position by position has those word bits. -/
theorem fieldOf_getLsbD (f : Nat → Bool) (k : Nat) (h : k < 32) : (fieldOf f).getLsbD k = f (31 - k) := by
  rw [fieldOf, fieldPrefix_getLsbD]
  simp [h]

/-- A field given position by position has those positions. -/
theorem fieldOf_fieldBit (f : Nat → Bool) (i : Nat) (h : i < 32) : fieldBit (fieldOf f) i = f i := by
  have e : 31 - (31 - i) = i := by omega
  rw [fieldBit_eq_getLsbD _ _ h, fieldOf_getLsbD _ _ (by omega), e]

/-- The positions of the mask with `c` leading ones (R63). -/
theorem leadingOnes_fieldBit (c : Int) (i : Nat) (h : i < 32) :
    fieldBit (leadingOnes c) i = decide ((i : Int) < c) := by
  simp [leadingOnes, fieldOf_fieldBit _ _ h]

/-- A word has at most 32 ones (R67). -/
theorem popcount_le (x : Word) : popcount x ≤ 32 := by
  simpa [popcount] using List.countP_le_length (p := fun n => x.getLsbD n) (l := List.range 32)

/-- The count as a register word does not wrap (R67). -/
theorem popcount_toNat (x : Word) : (BitVec.ofNat 32 (popcount x)).toNat = popcount x := by
  have := popcount_le x
  simp only [BitVec.toNat_ofNat]
  omega

end Sys2Proof.Machine
end

