-- ==== Sys2Proof/Laws/Decode.lean ====
section
/-! SUPPORT. What the decoder answers, by the fields of the word. -/

namespace Sys2Proof

/-- The reserved bits are tested first (R46). -/
theorem decode_of_reserved (w : Word) (h : reservedField w ≠ 0) : decode w = .error .reservedBits :=
  if_pos h

/-- The reserved field is the word's number over 32 (R45). -/
theorem reservedField_toNat (w : Word) : (reservedField w).toNat = w.toNat / 32 := by
  have := w.isLt
  simp only [reservedField, BitVec.extractLsb'_toNat, Nat.shiftRight_eq_div_pow]
  omega

/-- A word from 32 up has a reserved bit set. -/
theorem decode_of_large (w : Word) (h : 32 ≤ w.toNat) : decode w = .error .reservedBits := by
  refine decode_of_reserved w fun e => ?_
  have := congrArg BitVec.toNat e
  rw [reservedField_toNat] at this
  simp only [BitVec.ofNat_eq_ofNat, BitVec.toNat_ofNat, Nat.zero_mod] at this
  omega

/-- Placing a word of the table's 32 bits takes it as it stands. -/
@[simp] theorem tableWord_of_lt (w : Nat) (h : w < 2 ^ 32) : tableWord 32 w = BitVec.ofNat 32 w := by
  rw [tableWord, Nat.mod_eq_of_lt h]

end Sys2Proof
end

