-- ==== Sys2Proof/Laws/State.lean ====
section
/-! SUPPORT. One lemma per field per update of the state, each true by rfl, so that no later proof unfolds a record update. -/

namespace Sys2Proof.Machine

@[simp] theorem finishFail_a (f : Failure) (s : State) : (finishFail f s).a = s.a := rfl
@[simp] theorem finishFail_m (f : Failure) (s : State) : (finishFail f s).m = s.m := rfl
@[simp] theorem finishFail_c (f : Failure) (s : State) : (finishFail f s).c = s.c := rfl
@[simp] theorem finishFail_st (f : Failure) (s : State) : (finishFail f s).st = f.status.code := rfl
@[simp] theorem finishFail_r0 (f : Failure) (s : State) : (finishFail f s).r0 = 0 := rfl
@[simp] theorem finishFail_r1 (f : Failure) (s : State) : (finishFail f s).r1 = 0 := rfl
@[simp] theorem finishFail_rc (f : Failure) (s : State) : (finishFail f s).rc = 0 := rfl
@[simp] theorem finishFail_pending (f : Failure) (s : State) : (finishFail f s).pending = s.pending := rfl
@[simp] theorem finishFail_observed (f : Failure) (s : State) : (finishFail f s).observed = s.observed := rfl

@[simp] theorem finishDone_a (r : Results) (s : State) : (finishDone r s).a = s.a := rfl
@[simp] theorem finishDone_m (r : Results) (s : State) : (finishDone r s).m = s.m := rfl
@[simp] theorem finishDone_c (r : Results) (s : State) : (finishDone r s).c = s.c := rfl
@[simp] theorem finishDone_st (r : Results) (s : State) : (finishDone r s).st = 1 := rfl
@[simp] theorem finishDone_r0 (r : Results) (s : State) : (finishDone r s).r0 = r.r0 := rfl
@[simp] theorem finishDone_r1 (r : Results) (s : State) : (finishDone r s).r1 = r.r1 := rfl
@[simp] theorem finishDone_rc (r : Results) (s : State) : (finishDone r s).rc = r.rc := rfl
@[simp] theorem finishDone_pending (r : Results) (s : State) : (finishDone r s).pending = s.pending := rfl
@[simp] theorem finishDone_observed (r : Results) (s : State) : (finishDone r s).observed = s.observed := rfl

@[simp] theorem resetRegisters_a (s : State) : (resetRegisters s).a = 0 := rfl
@[simp] theorem resetRegisters_m (s : State) : (resetRegisters s).m = 0 := rfl
@[simp] theorem resetRegisters_c (s : State) : (resetRegisters s).c = 0 := rfl
@[simp] theorem resetRegisters_st (s : State) : (resetRegisters s).st = 0 := rfl
@[simp] theorem resetRegisters_r0 (s : State) : (resetRegisters s).r0 = 0 := rfl
@[simp] theorem resetRegisters_r1 (s : State) : (resetRegisters s).r1 = 0 := rfl
@[simp] theorem resetRegisters_rc (s : State) : (resetRegisters s).rc = 0 := rfl
@[simp] theorem resetRegisters_pending (s : State) : (resetRegisters s).pending = s.pending := rfl
@[simp] theorem resetRegisters_observed (s : State) : (resetRegisters s).observed = s.observed := rfl

@[simp] theorem observe_a (v : Word) (s : State) : (observe v s).a = s.a := rfl
@[simp] theorem observe_m (v : Word) (s : State) : (observe v s).m = s.m := rfl
@[simp] theorem observe_c (v : Word) (s : State) : (observe v s).c = s.c := rfl
@[simp] theorem observe_st (v : Word) (s : State) : (observe v s).st = s.st := rfl
@[simp] theorem observe_r0 (v : Word) (s : State) : (observe v s).r0 = s.r0 := rfl
@[simp] theorem observe_r1 (v : Word) (s : State) : (observe v s).r1 = s.r1 := rfl
@[simp] theorem observe_rc (v : Word) (s : State) : (observe v s).rc = s.rc := rfl
@[simp] theorem observe_pending (v : Word) (s : State) : (observe v s).pending = s.pending := rfl
@[simp] theorem observe_observed (v : Word) (s : State) : (observe v s).observed = s.observed ++ [v] := rfl

@[simp] theorem storeReg_a_a (v : Word) (s : State) : (storeReg .a v s).a = v := rfl
@[simp] theorem storeReg_a_m (v : Word) (s : State) : (storeReg .a v s).m = s.m := rfl
@[simp] theorem storeReg_a_c (v : Word) (s : State) : (storeReg .a v s).c = s.c := rfl
@[simp] theorem storeReg_a_st (v : Word) (s : State) : (storeReg .a v s).st = s.st := rfl
@[simp] theorem storeReg_a_r0 (v : Word) (s : State) : (storeReg .a v s).r0 = s.r0 := rfl
@[simp] theorem storeReg_a_r1 (v : Word) (s : State) : (storeReg .a v s).r1 = s.r1 := rfl
@[simp] theorem storeReg_a_rc (v : Word) (s : State) : (storeReg .a v s).rc = s.rc := rfl
@[simp] theorem storeReg_a_pending (v : Word) (s : State) : (storeReg .a v s).pending = s.pending := rfl
@[simp] theorem storeReg_a_observed (v : Word) (s : State) : (storeReg .a v s).observed = s.observed := rfl

@[simp] theorem storeReg_m_a (v : Word) (s : State) : (storeReg .m v s).a = s.a := rfl
@[simp] theorem storeReg_m_m (v : Word) (s : State) : (storeReg .m v s).m = v := rfl
@[simp] theorem storeReg_m_c (v : Word) (s : State) : (storeReg .m v s).c = s.c := rfl
@[simp] theorem storeReg_m_st (v : Word) (s : State) : (storeReg .m v s).st = s.st := rfl
@[simp] theorem storeReg_m_r0 (v : Word) (s : State) : (storeReg .m v s).r0 = s.r0 := rfl
@[simp] theorem storeReg_m_r1 (v : Word) (s : State) : (storeReg .m v s).r1 = s.r1 := rfl
@[simp] theorem storeReg_m_rc (v : Word) (s : State) : (storeReg .m v s).rc = s.rc := rfl
@[simp] theorem storeReg_m_pending (v : Word) (s : State) : (storeReg .m v s).pending = s.pending := rfl
@[simp] theorem storeReg_m_observed (v : Word) (s : State) : (storeReg .m v s).observed = s.observed := rfl

@[simp] theorem storeReg_c_a (v : Word) (s : State) : (storeReg .c v s).a = s.a := rfl
@[simp] theorem storeReg_c_m (v : Word) (s : State) : (storeReg .c v s).m = s.m := rfl
@[simp] theorem storeReg_c_c (v : Word) (s : State) : (storeReg .c v s).c = v := rfl
@[simp] theorem storeReg_c_st (v : Word) (s : State) : (storeReg .c v s).st = s.st := rfl
@[simp] theorem storeReg_c_r0 (v : Word) (s : State) : (storeReg .c v s).r0 = s.r0 := rfl
@[simp] theorem storeReg_c_r1 (v : Word) (s : State) : (storeReg .c v s).r1 = s.r1 := rfl
@[simp] theorem storeReg_c_rc (v : Word) (s : State) : (storeReg .c v s).rc = s.rc := rfl
@[simp] theorem storeReg_c_pending (v : Word) (s : State) : (storeReg .c v s).pending = s.pending := rfl
@[simp] theorem storeReg_c_observed (v : Word) (s : State) : (storeReg .c v s).observed = s.observed := rfl

@[simp] theorem storeReg_cmd (v : Word) (s : State) : storeReg .cmd v s = s := rfl
@[simp] theorem storeReg_st (v : Word) (s : State) : storeReg .st v s = s := rfl
@[simp] theorem storeReg_r0 (v : Word) (s : State) : storeReg .r0 v s = s := rfl
@[simp] theorem storeReg_r1 (v : Word) (s : State) : storeReg .r1 v s = s := rfl
@[simp] theorem storeReg_rc (v : Word) (s : State) : storeReg .rc v s = s := rfl

@[simp] theorem readReg_a (s : State) : readReg .a s = s.a := rfl
@[simp] theorem readReg_m (s : State) : readReg .m s = s.m := rfl
@[simp] theorem readReg_c (s : State) : readReg .c s = s.c := rfl
@[simp] theorem readReg_cmd (s : State) : readReg .cmd s = 0 := rfl
@[simp] theorem readReg_st (s : State) : readReg .st s = s.st.setWidth 32 := rfl
@[simp] theorem readReg_r0 (s : State) : readReg .r0 s = s.r0 := rfl
@[simp] theorem readReg_r1 (s : State) : readReg .r1 s = s.r1 := rfl
@[simp] theorem readReg_rc (s : State) : readReg .rc s = s.rc := rfl

@[simp] theorem withFetchWord_a (s : State) (nbits w : Nat) : (s.withFetchWord nbits w).a = s.a := rfl
@[simp] theorem withFetchWord_m (s : State) (nbits w : Nat) : (s.withFetchWord nbits w).m = s.m := rfl
@[simp] theorem withFetchWord_c (s : State) (nbits w : Nat) : (s.withFetchWord nbits w).c = s.c := rfl
@[simp] theorem withFetchWord_st (s : State) (nbits w : Nat) : (s.withFetchWord nbits w).st = s.st := rfl
@[simp] theorem withFetchWord_r0 (s : State) (nbits w : Nat) : (s.withFetchWord nbits w).r0 = s.r0 := rfl
@[simp] theorem withFetchWord_r1 (s : State) (nbits w : Nat) : (s.withFetchWord nbits w).r1 = s.r1 := rfl
@[simp] theorem withFetchWord_rc (s : State) (nbits w : Nat) : (s.withFetchWord nbits w).rc = s.rc := rfl
@[simp] theorem withFetchWord_pending (s : State) (nbits w : Nat) : (s.withFetchWord nbits w).pending = .write (indexOfReg .cmd) (tableWord nbits w) :: s.pending := rfl
@[simp] theorem withFetchWord_observed (s : State) (nbits w : Nat) : (s.withFetchWord nbits w).observed = s.observed := rfl

/-! How a command ends leaves the operands and the host's side as they were. -/

@[simp] theorem finish_a (o : Except Failure Results) (s : State) : (finish o s).a = s.a := by
  cases o <;> rfl

@[simp] theorem finish_m (o : Except Failure Results) (s : State) : (finish o s).m = s.m := by
  cases o <;> rfl

@[simp] theorem finish_c (o : Except Failure Results) (s : State) : (finish o s).c = s.c := by
  cases o <;> rfl

@[simp] theorem finish_pending (o : Except Failure Results) (s : State) : (finish o s).pending = s.pending := by
  cases o <;> rfl

@[simp] theorem finish_observed (o : Except Failure Results) (s : State) : (finish o s).observed = s.observed := by
  cases o <;> rfl

end Sys2Proof.Machine
end

