-- ==== Sys2Proof/Laws/Ops.lean ====
section
/-! SUPPORT. For each shared operation one lemma that says everything it can do, for proofs to cite. -/

namespace Sys2Proof.Machine

/-- The two ends of a command (R83). -/
theorem finish_cases (o : Except Failure Results) (s : State) :
    (∃ f, o = .error f ∧ finish o s = { s with st := f.status.code, r0 := 0, r1 := 0, rc := 0 }) ∨
    (∃ r, o = .ok r ∧ finish o s = { s with st := 1, r0 := r.r0, r1 := r.r1, rc := r.rc }) := by
  cases o with
  | error f => exact .inl ⟨f, rfl, rfl⟩
  | ok r => exact .inr ⟨r, rfl, rfl⟩

/-- Registers and indices correspond one to one (R18). -/
@[simp] theorem regOfIndex_indexOfReg (r : Reg) : regOfIndex (indexOfReg r) = r := by
  cases r <;> rfl

@[simp] theorem indexOfReg_regOfIndex (idx : RegIndex) : indexOfReg (regOfIndex idx) = idx := by
  revert idx
  decide

/-- The checker in terms of pairs (R60). -/
theorem maskValid_iff (m : Word) : maskValid m = true ↔ ∀ i, i < 31 → badPair m i = false := by
  simp [maskValid]

/-- `validate_mask` answers by the checker alone (R60). -/
theorem validateMask_cases (m : Word) :
    (maskValid m = true ∧ validateMask m = .ok ()) ∨ (maskValid m = false ∧ validateMask m = .error .mask) := by
  cases h : maskValid m
  · exact .inr ⟨rfl, by simp [validateMask, h]⟩
  · exact .inl ⟨rfl, by simp [validateMask, h]⟩

/-- `mask_from_cidr` refuses outside 1 to 30 and answers the leading ones inside (R63). -/
theorem maskFromCidr_cases (c : Int) :
    ((c < 1 ∨ 30 < c) ∧ maskFromCidr c = .error .cidr) ∨
    (1 ≤ c ∧ c ≤ 30 ∧ maskFromCidr c = .ok (leadingOnes c)) := by
  by_cases h : c < 1 ∨ 30 < c
  · exact .inl ⟨h, by simp [maskFromCidr, h]⟩
  · exact .inr ⟨by omega, by omega, by simp [maskFromCidr, h]⟩

/-- `cidr_from_mask` counts the ones of a valid mask and delivers nothing for another (R65). -/
theorem cidrFromMask_cases (m : Word) :
    (maskValid m = true ∧ cidrFromMask m = .ok (BitVec.ofNat 32 (popcount m))) ∨
    (maskValid m = false ∧ cidrFromMask m = .error .mask) := by
  rcases validateMask_cases m with ⟨v, e⟩ | ⟨v, e⟩
  · exact .inl ⟨v, by rw [cidrFromMask, e]; rfl⟩
  · exact .inr ⟨v, by rw [cidrFromMask, e]; rfl⟩

/-- `network_id` is the AND under a valid mask (R68). -/
theorem networkId_cases (a m : Word) :
    (maskValid m = true ∧ networkId a m = .ok (a &&& m)) ∨ (maskValid m = false ∧ networkId a m = .error .mask) := by
  rcases validateMask_cases m with ⟨v, e⟩ | ⟨v, e⟩
  · exact .inl ⟨v, by rw [networkId, e]; rfl⟩
  · exact .inr ⟨v, by rw [networkId, e]; rfl⟩

/-- `broadcast` is the source's formula under a valid mask (R70). -/
theorem broadcast_cases (a m : Word) :
    (maskValid m = true ∧ broadcast a m = .ok (a &&& m ||| ~~~m)) ∨
    (maskValid m = false ∧ broadcast a m = .error .mask) := by
  rcases validateMask_cases m with ⟨v, e⟩ | ⟨v, e⟩
  · exact .inl ⟨v, by rw [broadcast, e]; rfl⟩
  · exact .inr ⟨v, by rw [broadcast, e]; rfl⟩

/-- The validator tests the network id first (R75). -/
theorem validateHost_cases (a m : Word) :
    (a = a &&& m ∧ validateHost a m = .error .hostIsNetworkId) ∨
    (a ≠ a &&& m ∧ a = a &&& m ||| ~~~m ∧ validateHost a m = .error .hostIsBroadcast) ∨
    (a ≠ a &&& m ∧ a ≠ a &&& m ||| ~~~m ∧ validateHost a m = .ok ()) := by
  by_cases h : a = a &&& m
  · exact .inl ⟨h, if_pos h⟩
  · by_cases k : a = a &&& m ||| ~~~m
    · exact .inr (.inl ⟨h, k, (if_neg h).trans (if_pos k)⟩)
    · exact .inr (.inr ⟨h, k, (if_neg h).trans (if_neg k)⟩)

/-- The construction protocol: the mask first, then the validator if it is asked for, then the two fields copied (R74). -/
theorem construct_cases (a m : Word) (h : Bool) :
    (maskValid m = false ∧ construct a m h = .error .mask) ∨
    (maskValid m = true ∧ h = false ∧ construct a m h = .ok { addressBits := a, maskBits := m }) ∨
    (maskValid m = true ∧ h = true ∧ ∃ f, validateHost a m = .error f ∧ construct a m h = .error f) ∨
    (maskValid m = true ∧ h = true ∧ validateHost a m = .ok () ∧
      construct a m h = .ok { addressBits := a, maskBits := m }) := by
  rcases validateMask_cases m with ⟨v, e⟩ | ⟨v, e⟩
  · cases h with
    | false => exact .inr (.inl ⟨v, rfl, by simp [construct, e]⟩)
    | true =>
      cases k : validateHost a m with
      | error f => exact .inr (.inr (.inl ⟨v, rfl, f, rfl, by simp [construct, e, k]⟩))
      | ok u => exact .inr (.inr (.inr ⟨v, rfl, rfl, by simp [construct, e, k]⟩))
  · exact .inl ⟨v, by simp [construct, e]⟩

/-- The CIDR-shaped construction refuses the prefix length or is the protocol on the derived mask (R76). -/
theorem constructFromCidr_cases (a : Word) (c : Int) (h : Bool) :
    ((c < 1 ∨ 30 < c) ∧ constructFromCidr a c h = .error .cidr) ∨
    (1 ≤ c ∧ c ≤ 30 ∧ constructFromCidr a c h = construct a (leadingOnes c) h) := by
  rcases maskFromCidr_cases c with ⟨v, e⟩ | ⟨v, w, e⟩
  · exact .inl ⟨v, by rw [constructFromCidr, e]⟩
  · exact .inr ⟨v, w, by rw [constructFromCidr, e]⟩

/-- What a command answers, as a function of the operand registers alone (R28). -/
def outcomeOf (i : Instr) (a m c : Word) : Except Failure Results :=
  match i with
  | .vmask => (validateMask m).map fun _ => {}
  | .c2m => (maskFromCidr (sext32 c)).map fun k => { r0 := k }
  | .m2c => (cidrFromMask m).map fun n => { rc := n }
  | .netid => (networkId a m).map fun n => { r0 := n }
  | .bcast => (broadcast a m).map fun b => { r0 := b }
  | .mkaddr h => (construct a m h).map Address.results
  | .mkaddrc h => (constructFromCidr a (sext32 c) h).map Address.results

/-- Every command computes its outcome from A, M and C and ends by it. -/
theorem exec_eq_finish (i : Instr) (s : State) : exec i s = .next (finish (outcomeOf i s.a s.m s.c) s) := by
  cases i <;> rfl

/-- A command word ends by an outcome whatever it is (R46). -/
theorem runCommandWord_cases (w : Word) (s : State) :
    (∃ i, decode w = .ok i ∧ runCommandWord w s = .next (finish (outcomeOf i s.a s.m s.c) s)) ∨
    (∃ e, decode w = .error e ∧ runCommandWord w s = .next (finishFail .illegal s)) := by
  cases h : decode w with
  | ok i => exact .inl ⟨i, rfl, by simp only [runCommandWord, h, exec_eq_finish]⟩
  | error e => exact .inr ⟨e, rfl, by simp only [runCommandWord, h]⟩

/-- A host write stores, except on CMD (R32). -/
theorem hostWrite_cases (idx : RegIndex) (v : Word) (s : State) :
    (regOfIndex idx = .cmd ∧ hostWrite idx v s = runCommandWord v s) ∨
    (regOfIndex idx ≠ .cmd ∧ hostWrite idx v s = .next (storeReg (regOfIndex idx) v s)) := by
  cases h : regOfIndex idx <;> simp [hostWrite, h]

/-- One host action (R31). -/
theorem performAction_cases (act : HostAction) (s : State) :
    (act = .reset ∧ performAction act s = .next (resetRegisters s)) ∨
    (∃ idx v, act = .write idx v ∧ performAction act s = hostWrite idx v s) ∨
    (∃ idx, act = .read idx ∧ performAction act s = .next (observe (hostRead idx s) s)) := by
  cases act with
  | reset => exact .inl ⟨rfl, rfl⟩
  | write idx v => exact .inr (.inl ⟨idx, v, rfl, rfl⟩)
  | read idx => exact .inr (.inr ⟨idx, rfl, rfl⟩)

/-- A step with an action pending performs it on the state without it (R36). -/
theorem step_of_pending (s : State) (act : HostAction) (rest : List HostAction) (h : s.pending = act :: rest) :
    step s = performAction act { s with pending := rest } := by
  simp only [step, performNext, h]

end Sys2Proof.Machine
end

