-- ==== Sys2Proof/Laws/PerInstr.lean ====
section
/-! SUPPORT. The family of lemmas made per command: what its encoding is (R45, R47). -/

namespace Sys2Proof.Laws.EncodesLegalWord

/-- The command is well-formed, its word passes the three tests of R46, and the fields of the word are those of the
command. -/
def Statement (i : Instr) : Prop :=
  i.wellFormed = true ∧ commandWordLegal (encode i) = true ∧ opcField (encode i) = i.opcode ∧
    hostFlagField (encode i) = i.hostFlag ∧ reservedField (encode i) = 0

theorem vmask : Statement .vmask := by unfold Statement; decide

theorem c2m : Statement .c2m := by unfold Statement; decide

theorem m2c : Statement .m2c := by unfold Statement; decide

theorem netid : Statement .netid := by unfold Statement; decide

theorem bcast : Statement .bcast := by unfold Statement; decide

theorem mkaddr (requireHost : Bool) : Statement (.mkaddr requireHost) := by
  unfold Statement; revert requireHost; decide

theorem mkaddrc (requireHost : Bool) : Statement (.mkaddrc requireHost) := by
  unfold Statement; revert requireHost; decide

end Sys2Proof.Laws.EncodesLegalWord
end

