-- ==== Sys2Proof/Laws/Run.lean ====
section
/-! SUPPORT. Runs, one step at a time. -/

namespace Sys2Proof.Machine

/-- A run of no step stays where it is. -/
@[simp] theorem run_zero (s : State) : run 0 s = .next s := rfl

/-- A run of any machine begins with a step. -/
theorem coreRun_of_step (M : Host.Core) (s t : M.State) (n : Nat) (h : M.step s = .next t) :
    M.run (n + 1) s = M.run n t := by
  simp only [Host.Core.run, h]

/-- A run of the block begins with a step. -/
theorem run_of_step (s t : State) (n : Nat) (h : step s = .next t) : run (n + 1) s = run n t :=
  coreRun_of_step Sys2Proof.core s t n h

end Sys2Proof.Machine
end

