-- ==== Sys2Proof/Tests/Slice0.lean ====
section
/-! SUPPORT. Tests. Expected values are the spec's: the words of R46 and R51, and rows of spec/95_test_vectors.md, named at
each group. The witness theorems show, for each statement of Certificates/Slice0/Obligations.lean that has hypotheses, a
concrete case that meets them. -/

namespace Sys2Proof.Tests

open Sys2Proof.Machine

/-! ### Well-formedness: each of the three checks of R46 refuses an ill-formed word -/

theorem test_reserved_bit_five_ill_formed : reservedBitsClear 0x26 = false ∧ commandWordLegal 0x26 = false := by decide

theorem test_opcode_zero_ill_formed : opcodeAssigned 0x00 = false ∧ commandWordLegal 0x00 = false := by decide

theorem test_opcode_eight_ill_formed : opcodeAssigned 0x08 = false ∧ commandWordLegal 0x08 = false := by decide

theorem test_flag_on_vmask_ill_formed : hostFlagAllowed 0x11 = false ∧ commandWordLegal 0x11 = false := by decide

theorem test_commands_well_formed :
    ([.vmask, .c2m, .m2c, .netid, .bcast, .mkaddr true, .mkaddrc true] : List Instr).all Instr.wellFormed = true := by
  decide

/-! ### Decoding: RSV (27 bits), H, OPC (4 bits), written out from R45 and R47 -/

theorem test_decode_vmask : decode 0b000000000000000000000000000_0_0001 = .ok .vmask := by decide

theorem test_decode_c2m : decode 0b000000000000000000000000000_0_0010 = .ok .c2m := by decide

theorem test_decode_m2c : decode 0b000000000000000000000000000_0_0011 = .ok .m2c := by decide

theorem test_decode_netid : decode 0b000000000000000000000000000_0_0100 = .ok .netid := by decide

theorem test_decode_bcast : decode 0b000000000000000000000000000_0_0101 = .ok .bcast := by decide

theorem test_decode_mkaddr : decode 0b000000000000000000000000000_0_0110 = .ok (.mkaddr false) := by decide

theorem test_decode_mkaddr_host : decode 0b000000000000000000000000000_1_0110 = .ok (.mkaddr true) := by decide

theorem test_decode_mkaddrc : decode 0b000000000000000000000000000_0_0111 = .ok (.mkaddrc false) := by decide

theorem test_decode_mkaddrc_host : decode 0b000000000000000000000000000_1_0111 = .ok (.mkaddrc true) := by decide

/-- Illegal words of section 9.1, each rejected by name. -/
theorem test_decode_illegal :
    decode 0x00000000 = .error .unassignedOpcode ∧ decode 0x0000000F = .error .unassignedOpcode ∧
    decode 0x00000010 = .error .unassignedOpcode ∧ decode 0x00000018 = .error .unassignedOpcode ∧
    decode 0x00000015 = .error .hostFlagOnPlainCommand ∧ decode 0x00000026 = .error .reservedBits ∧
    decode 0x80000001 = .error .reservedBits ∧ decode 0xFFFFFFFF = .error .reservedBits := by
  decide

theorem test_encode_words :
    encode (.mkaddr true) = 0x16 ∧ encode (.mkaddrc true) = 0x17 ∧ encode .vmask = 0x1 ∧ encode .bcast = 0x5 := by
  decide

/-! ### One command, one step -/

/-- A state with the given operands, everything else as after reset. -/
def operands (a m c : Word) : State := { State.reset with a := a, m := m, c := c }

/-- ST, R0, R1, RC after one step that writes the command word to CMD. -/
def issue (w : Word) (s : State) : Option (StatusCode × Word × Word × Word) :=
  match step { s with pending := [.write 3 w] } with
  | .next t => some (t.st, t.r0, t.r1, t.rc)
  | .fault _ => none
  | .refused _ => none

/-- Section 3. -/
theorem test_vmask_hole : issue 0x1 (operands 0 0xFFFF00FF 0) = some (4, 0, 0, 0) := by decide

theorem test_vmask_slash_31 : issue 0x1 (operands 0 0xFFFFFFFE 0) = some (1, 0, 0, 0) := by decide

/-- Section 4. -/
theorem test_c2m_19 : issue 0x2 (operands 0 0 19) = some (1, 0xFFFFE000, 0, 0) := by decide

theorem test_c2m_280 : issue 0x2 (operands 0 0 0x118) = some (5, 0, 0, 0) := by decide

/-- Section 5. -/
theorem test_m2c_slash_32 : issue 0x3 (operands 0 0xFFFFFFFF 0) = some (1, 0, 0, 32) := by decide

theorem test_m2c_invalid : issue 0x3 (operands 0 0xAAAAAAAA 0) = some (4, 0, 0, 0) := by decide

/-- Section 6. -/
theorem test_netid_slash_19 : issue 0x4 (operands 0xDEADBEEF 0xFFFFE000 0) = some (1, 0xDEADA000, 0, 0) := by decide

theorem test_netid_invalid : issue 0x4 (operands 0xC0A8010A 0x000000FF 0) = some (4, 0, 0, 0) := by decide

theorem test_bcast_slash_12 : issue 0x5 (operands 0xAC10FE01 0xFFF00000 0) = some (1, 0xAC1FFFFF, 0, 0) := by decide

theorem test_bcast_slash_0 : issue 0x5 (operands 0x12345678 0 0) = some (1, 0xFFFFFFFF, 0, 0) := by decide

/-- Section 7: the order of the tests on /32, and the invalid mask before the host test. -/
theorem test_mkaddr_slash_32 : issue 0x16 (operands 0xC0A8010A 0xFFFFFFFF 0) = some (6, 0, 0, 0) := by decide

theorem test_mkaddr_slash_31 :
    issue 0x16 (operands 0xC0A8010B 0xFFFFFFFE 0) = some (7, 0, 0, 0) ∧
    issue 0x06 (operands 0xC0A801FF 0xFFFFFF00 0) = some (1, 0xC0A801FF, 0xFFFFFF00, 0) := by decide

/-- Section 8, with M = 0x12345678 as there. -/
theorem test_mkaddrc_slash_30 :
    issue 0x17 (operands 0xC0A80109 0x12345678 30) = some (1, 0xC0A80109, 0xFFFFFFFC, 0) := by decide

theorem test_mkaddrc_cidr_first : issue 0x17 (operands 0xC0A80100 0x12345678 31) = some (5, 0, 0, 0) := by decide

/-- Section 9.1: an illegal word on operands that make every legal command succeed. -/
theorem test_illegal_word : issue 0x26 (operands 0xC0A8010A 0xFFFFFF00 24) = some (8, 0, 0, 0) := by decide

/-- Section 9.4: a host write to ST is ignored, and CMD reads zero. -/
theorem test_ignored_write_and_cmd_read :
    hostRead 3 (operands 1 2 3) = 0 ∧
    (match step { operands 1 2 3 with pending := [.write 4 0xDEADBEEF] } with
      | .next t => t = operands 1 2 3
      | .fault _ => False
      | .refused _ => False) := by
  exact ⟨by decide, rfl⟩

/-- R12, R13, R50: 192.168.1.10 and its octets. -/
theorem test_octets :
    ip 192 168 1 10 = 0xC0A8010A ∧ bitsToOctets 0xC0A8010A = { o0 := 192, o1 := 168, o2 := 1, o3 := 10 } := by decide

/-- R11: the field bits of 192.168.1.10. -/
theorem test_field_bits :
    fieldBit 0xC0A8010A 0 = true ∧ fieldBit 0xC0A8010A 2 = false ∧ fieldBit 0xC0A8010A 30 = true ∧
    fieldBit 0xC0A8010A 31 = false := by decide

/-- R52 and program P1, steps 1, 2, 4; R50's -1. -/
theorem test_transcription :
    transcribe .reset = ['R', 'S', 'T'] ∧
    transcribe (hwr .c 24) = ['W', ' ', '2', ' ', '0', '0', '0', '0', '0', '0', '1', '8'] ∧
    transcribe (hwr .a 0xC0A8010A) = ['W', ' ', '0', ' ', 'C', '0', 'A', '8', '0', '1', '0', 'A'] ∧
    transcribe (hrd .st) = ['R', ' ', '4'] ∧ intConst (-1) = 0xFFFFFFFF := by decide

/-! ### Witnesses: hypotheses that are met -/

theorem slash24_contiguous : Contiguous 0xFFFFFF00 := by unfold Contiguous; decide

theorem slash0_contiguous : Contiguous 0 := by unfold Contiguous; decide

theorem slash32_contiguous : Contiguous 0xFFFFFFFF := by unfold Contiguous; decide

theorem last_pair_not_contiguous : ¬Contiguous 0x00000001 := by unfold Contiguous; decide

theorem first_pair_not_contiguous : ¬Contiguous 0x7FFFFFFF := by unfold Contiguous; decide

/-- IllegalWordFailsWithCodeEight: each of the four clauses at the ends of its range. -/
theorem witness_illegal_word :
    ({ State.reset with pending := [.write 3 0x26] } : State).pending = [.write 3 0x26] ∧
    (0x26 : Word).extractLsb' 5 27 ≠ 0 ∧ (0x80000001 : Word).extractLsb' 5 27 ≠ 0 ∧
    ((0x00 : Word).extractLsb' 0 4).toNat = 0 ∧ 8 ≤ ((0x08 : Word).extractLsb' 0 4).toNat ∧
    8 ≤ ((0x0F : Word).extractLsb' 0 4).toNat ∧
    ((0x11 : Word).getLsbD 4 = true ∧ 1 ≤ ((0x11 : Word).extractLsb' 0 4).toNat) ∧
    ((0x15 : Word).getLsbD 4 = true ∧ ((0x15 : Word).extractLsb' 0 4).toNat ≤ 5) := by
  decide

/-- DecodeInvertsEncode. -/
theorem witness_well_formed : (Instr.mkaddrc true).wellFormed = true ∧ (0x17 : Word) = encode (.mkaddrc true) := by decide

/-- VmaskJudgesContiguity, M2cCountsTheOnesOfAValidMask, NetidMasksTheAddress, BcastForcesTheHostBits, NetidProperties,
BcastProperties, HostValidatorLooksAtHostPositions, and the third part of ConvertersRoundTrip: valid masks at both ends
and an invalid one whose only bad pair is the first or the last. -/
theorem witness_masks :
    Contiguous (operands 0 0 0).m ∧ Contiguous (operands 0 0xFFFFFFFF 0).m ∧ Contiguous (operands 0 0xFFFFFF00 0).m ∧
    ¬Contiguous (operands 0 1 0).m ∧ ¬Contiguous (operands 0 0x7FFFFFFF 0).m :=
  ⟨slash0_contiguous, slash32_contiguous, slash24_contiguous, last_pair_not_contiguous, first_pair_not_contiguous⟩

/-- The third part of ConvertersRoundTrip: a valid mask with a prefix length in 1 to 30. -/
theorem witness_m2c_in_range :
    Contiguous (operands 0 0xFFFFFF00 0).m ∧
    (match exec .m2c (operands 0 0xFFFFFF00 0) with
      | .next t => t.rc = 24
      | .fault _ => False
      | .refused _ => False) := ⟨slash24_contiguous, rfl⟩

/-- NetidProperties, BcastProperties: network and host positions, and another state with the same A and M. -/
theorem witness_netid_positions :
    (0xFFFFFF00 : Word).getLsbD (31 - 23) = true ∧ (0xFFFFFF00 : Word).getLsbD (31 - 24) = false ∧
    (operands 5 0xFFFFFF00 7).a = (operands 5 0xFFFFFF00 0).a ∧
    (operands 5 0xFFFFFF00 7).m = (operands 5 0xFFFFFF00 0).m := by decide

/-- CheckerProperties, C2mBuildsTheLeadingOnes, ConvertersRoundTrip, MkaddrcConstructsFromPrefixLength: both ends of the
accepted range, and the source's alternating mask. -/
theorem witness_cidr_in_range :
    1 ≤ (operands 0 0 1).c.toInt ∧ (operands 0 0 1).c.toInt ≤ 30 ∧ 1 ≤ (operands 0 0 30).c.toInt ∧
    (operands 0 0 30).c.toInt ≤ 30 ∧ (operands 0 0xAAAAAAAA 0).m = 0xAAAAAAAA := by decide

/-- C2mBuildsTheLeadingOnes, MkaddrcConstructsFromPrefixLength: just below, just above, and negative. -/
theorem witness_cidr_out_of_range :
    CidrOutOfRange (operands 0 0 0).c ∧ CidrOutOfRange (operands 0 0 31).c ∧ CidrOutOfRange (operands 0 0 0xFFFFFFFF).c ∧
    CidrOutOfRange (operands 0 0 0x80000000).c := by
  unfold CidrOutOfRange; decide

/-- C2mWordForms, ConstructedAddressInvariants. -/
theorem witness_cidr_number : 1 ≤ 30 ∧ 30 ≤ 30 ∧ (operands 0 0 30).c = BitVec.ofNat 32 30 ∧
    (operands 0 0 1).c = BitVec.ofNat 32 1 := by decide

/-- ValidMasksAreTheThirtyThreePrefixes, M2cReturnsThePrefixLength, ConvertersRoundTrip, ConstructedAddressInvariants: the
masks that C2M never makes. -/
theorem witness_prefix_masks :
    (operands 0 0 0).m = prefixMask 0 ∧ (operands 0 0xFFFFFFFE 0).m = prefixMask 31 ∧
    (operands 0 0xFFFFFFFF 0).m = prefixMask 32 ∧ 32 ≤ 32 ∧ prefixMask 32 = prefixMask 32 := by decide

/-- MkaddrConstructsFromMask: for each of its clauses a state that meets all of the clause's hypotheses, on /24. -/
theorem witness_mkaddr_clauses :
    ¬Contiguous (operands 0xC0A80100 0x000000FF 0).m ∧
    (Contiguous (operands 0xC0A80100 0xFFFFFF00 0).m ∧ (0xC0A80100 : Word) = 0xC0A80100 &&& 0xFFFFFF00) ∧
    (Contiguous (operands 0xC0A801FF 0xFFFFFF00 0).m ∧ (0xC0A801FF : Word) ≠ 0xC0A801FF &&& 0xFFFFFF00 ∧
      (0xC0A801FF : Word) = (0xC0A801FF &&& 0xFFFFFF00) ||| ~~~0xFFFFFF00) ∧
    (Contiguous (operands 0xC0A8010A 0xFFFFFF00 0).m ∧ (0xC0A8010A : Word) ≠ 0xC0A8010A &&& 0xFFFFFF00 ∧
      (0xC0A8010A : Word) ≠ (0xC0A8010A &&& 0xFFFFFF00) ||| ~~~0xFFFFFF00) := by
  refine ⟨by unfold Contiguous; decide, ⟨slash24_contiguous, by decide⟩, ⟨slash24_contiguous, by decide⟩,
    slash24_contiguous, by decide⟩

/-- MkaddrcConstructsFromPrefixLength: for each clause with the host flag a state that meets all of its hypotheses, on the
derived mask of C = 30. -/
theorem witness_mkaddrc_clauses :
    leadingOnes 30 = 0xFFFFFFFC ∧
    (1 ≤ (operands 0xC0A80108 0 30).c.toInt ∧ (operands 0xC0A80108 0 30).c.toInt ≤ 30 ∧
      (operands 0xC0A80108 0 30).a = (operands 0xC0A80108 0 30).a &&& 0xFFFFFFFC) ∧
    (1 ≤ (operands 0xC0A8010B 0 30).c.toInt ∧ (operands 0xC0A8010B 0 30).c.toInt ≤ 30 ∧
      (operands 0xC0A8010B 0 30).a = ((operands 0xC0A8010B 0 30).a &&& 0xFFFFFFFC) ||| ~~~0xFFFFFFFC) ∧
    (1 ≤ (operands 0xC0A80109 0 30).c.toInt ∧ (operands 0xC0A80109 0 30).c.toInt ≤ 30 ∧
      (operands 0xC0A80109 0 30).a ≠ (operands 0xC0A80109 0 30).a &&& 0xFFFFFFFC ∧
      (operands 0xC0A80109 0 30).a ≠ ((operands 0xC0A80109 0 30).a &&& 0xFFFFFFFC) ||| ~~~0xFFFFFFFC) := by decide

/-- ConstructedAddressInvariants, DerivedAttributesOfAnAddressAreAvailable: constructions that succeed with the flag. -/
theorem witness_constructions_succeed :
    issue 0x16 (operands 0xC0A8010A 0xFFFFFF00 0) = some (1, 0xC0A8010A, 0xFFFFFF00, 0) ∧
    issue 0x17 (operands 0xC0A8010A 0 24) = some (1, 0xC0A8010A, 0xFFFFFF00, 0) ∧
    ((Instr.mkaddr true) = .mkaddr true ∨ (Instr.mkaddr true) = .mkaddrc true) := by decide

/-- CommandEndsByFailureOrSuccess, FailureMatrix, HostWriteByIndex, StepRunsTheDecodedCommand: a pending legal word. -/
theorem witness_pending_command :
    ({ operands 1 2 3 with pending := [.write 3 0x4] } : State).pending = .write 3 0x4 :: [] ∧
    decode 0x4 = .ok .netid ∧ Instr.netid.wellFormed = true := by decide

/-- CommandEndsByFailureOrSuccess, FailureMatrix, HostWriteByIndex, FirstApplicableFailureIsReported: a pending illegal
word. -/
theorem witness_pending_illegal_word :
    ({ operands 1 2 3 with pending := [.write 3 0x14] } : State).pending = .write 3 0x14 :: [] ∧
    decode 0x14 = .error .hostFlagOnPlainCommand := by decide

/-- OutcomeDependsOnOperandsAlone: two states with the same operands and the same word next, and another history. -/
theorem witness_same_operands :
    ({ operands 1 2 3 with st := 4, pending := [.write 3 0x4] } : State).pending = .write 3 0x4 :: [] ∧
    ({ operands 1 2 3 with r0 := 9, pending := [.write 3 0x4, .reset] } : State).pending = .write 3 0x4 :: [.reset] ∧
    SameOperands { operands 1 2 3 with st := 4, pending := [.write 3 0x4] }
      { operands 1 2 3 with r0 := 9, pending := [.write 3 0x4, .reset] } := by decide

/-- CommandEndsByFailureOrSuccess: a word that ends in success and one that ends in failure. -/
theorem witness_both_ends :
    issue 0x4 (operands 0 0 0) = some (1, 0, 0, 0) ∧ issue 0x14 (operands 0 0 0) = some (8, 0, 0, 0) := by decide

/-- OutcomeDependsOnOperandsAlone, HostWriteByIndex: writes of each kind. -/
theorem witness_pending_writes :
    ({ State.reset with pending := [.write 0 5] } : State).pending = [.write 0 5] ∧
    ({ State.reset with pending := [.write 1 5] } : State).pending = [.write 1 5] ∧
    ({ State.reset with pending := [.write 2 5] } : State).pending = [.write 2 5] ∧
    4 ≤ (4 : RegIndex).toNat ∧ 4 ≤ (7 : RegIndex).toNat := by decide

/-- UnreadOperandsHaveNoInfluence: MKADDRC with two contents of M. -/
theorem witness_unread_operand :
    (readsA (.mkaddrc true) = true → (operands 1 2 3).a = (operands 1 9 3).a) ∧
    (readsM (.mkaddrc true) = true → (operands 1 2 3).m = (operands 1 9 3).m) ∧
    (readsC (.mkaddrc true) = true → (operands 1 2 3).c = (operands 1 9 3).c) := by decide

/-- HostReadByIndex: a pending read, and a consistent state whose last command did not succeed. -/
theorem witness_read_without_success :
    ({ State.reset with pending := [.read 5] } : State).pending = .read 5 :: [] ∧
    Consistent { State.reset with pending := [.read 5] } ∧
    ({ State.reset with pending := [.read 5] } : State).st ≠ 1 ∧ 5 ≤ (5 : RegIndex).toNat := by
  refine ⟨rfl, ⟨by decide, fun _ => ⟨rfl, rfl, rfl⟩, by decide, slash0_contiguous, fun _ => ⟨rfl, rfl⟩⟩, by decide, by decide⟩

/-- OperandsAreWrittenByTheHostOnly, OutcomeIsWrittenByCommandsAndResetOnly: steps that do change a register. -/
theorem witness_registers_change :
    (match step { State.reset with pending := [.write 0 5] } with
      | .next t => t.a ≠ (State.reset).a
      | .fault _ => False
      | .refused _ => False) ∧
    issue 0x1 State.reset ≠ some (State.reset.st, State.reset.r0, State.reset.r1, State.reset.rc) := by
  constructor
  · show (5 : Word) ≠ 0
    decide
  · decide

/-- ResultsStayUntilTheNextCommand, ReadReturnsTheLatestOperandWrite: actions of every allowed kind in between. -/
theorem witness_actions_between :
    (∀ act ∈ ([.write 0 7, .read 5, .write 4 1, .write 2 0] : List HostAction), leavesOutcome act = true) ∧
    (∀ act ∈ ([.write 1 7, .read 0, .write 3 4, .write 7 0] : List HostAction), leavesOperand 0 act = true) := by decide

/-- ResetWritesEveryRegister, ResetLeavesTheHostSide, IdleBlockDoesNothing. -/
theorem witness_pending_reset :
    ({ operands 1 2 3 with pending := [.reset, .read 0] } : State).pending = .reset :: [.read 0] ∧
    (operands 1 2 3).pending = [] := by decide

/-- PlacedWordRunsNext. -/
theorem witness_placed_word : decodeTableWord 32 0x17 = some (.mkaddrc true) := by decide

/-- EveryStepKeepsConsistency: a consistent state that steps to a result. -/
theorem witness_consistent_step :
    Consistent { operands 1 0 3 with pending := [.write 3 0x5] } ∧
    ∃ t, step { operands 1 0 3 with pending := [.write 3 0x5] } = .next t ∧ t.r0 = 0xFFFFFFFF :=
  ⟨⟨by decide, fun _ => ⟨rfl, rfl, rfl⟩, by decide, slash0_contiguous, fun _ => ⟨rfl, rfl⟩⟩, _, rfl, by decide⟩

end Sys2Proof.Tests
end

/-! PROOFS. The statements about the registers and the value types (spec/10_state.md), R11 to R15, R28 and R29. -/

/-! ### Fields, octets and their numbers (R11 to R13) -/

namespace Sys2Proof.Machine

/-- The number of the first `n` positions of a field: position `i` weighs `2^(n-1-i)` (R11). -/
theorem fieldPrefix_toNat (f : Nat → Bool) (n : Nat) :
    (fieldPrefix f n).toNat = ((List.range n).map fun i => (f i).toNat * 2 ^ (n - 1 - i)).sum := by
  induction n with
  | zero => rfl
  | succ n ih =>
    have weights_double : ∀ i ∈ List.range n,
        (f i).toNat * 2 ^ (n + 1 - 1 - i) = (f i).toNat * 2 ^ (n - 1 - i) * 2 := by
      intro i hi
      have e : n + 1 - 1 - i = n - 1 - i + 1 := by have := List.mem_range.mp hi; omega
      rw [e, pow_succ, mul_assoc]
    rw [fieldPrefix, BitVec.toNat_concat, ih, List.range_succ, List.map_append, List.sum_append,
      List.map_congr_left weights_double, List.sum_map_mul_right]
    simp

/-- A slice of a word of `n` positions from position `p` on: the field of those positions (R12). -/
theorem extractLsb'_eq_fieldPrefix (x : Word) (start n p : Nat) (h : p + n + start = 32) :
    x.extractLsb' start n = fieldPrefix (fun j => fieldBit x (p + j)) n := by
  refine BitVec.eq_of_getLsbD_eq fun k hk => ?_
  have e : 31 - (p + (n - 1 - k)) = start + k := by omega
  rw [fieldPrefix_getLsbD, fieldBit_eq_getLsbD _ _ (by omega), e, BitVec.getLsbD_extractLsb']

/-- The number of the eight positions of a word from position `p` on (R12). -/
theorem slice_toNat_eq_sum (x : Word) (start p : Nat) (h : p + 8 + start = 32) :
    (x.extractLsb' start 8).toNat = ((List.range 8).map fun j => (fieldBit x (p + j)).toNat * 2 ^ (7 - j)).sum := by
  rw [extractLsb'_eq_fieldPrefix x start 8 p h, fieldPrefix_toNat]

/-- A field is the word of its own positions (R10, R11). -/
theorem fieldOf_fieldBit_self (x : Word) : fieldOf (fieldBit x) = x := by
  refine BitVec.eq_of_getLsbD_eq fun k hk => ?_
  have e : 31 - (31 - k) = k := by omega
  rw [fieldOf_getLsbD _ _ hk, fieldBit_eq_getLsbD _ _ (by omega), e]

/-! The four octets as slices of the word's number (R12). -/

theorem bitsToOctets_o0_toNat (x : Word) : (bitsToOctets x).o0.toNat = x.toNat / 2 ^ 24 := by
  have := x.isLt
  simp only [bitsToOctets, BitVec.extractLsb'_toNat, Nat.shiftRight_eq_div_pow]
  omega

theorem bitsToOctets_o1_toNat (x : Word) : (bitsToOctets x).o1.toNat = x.toNat / 2 ^ 16 % 2 ^ 8 := by
  simp only [bitsToOctets, BitVec.extractLsb'_toNat, Nat.shiftRight_eq_div_pow]

theorem bitsToOctets_o2_toNat (x : Word) : (bitsToOctets x).o2.toNat = x.toNat / 2 ^ 8 % 2 ^ 8 := by
  simp only [bitsToOctets, BitVec.extractLsb'_toNat, Nat.shiftRight_eq_div_pow]

theorem bitsToOctets_o3_toNat (x : Word) : (bitsToOctets x).o3.toNat = x.toNat % 2 ^ 8 := by
  simp only [bitsToOctets, BitVec.extractLsb'_toNat, Nat.shiftRight_zero]

/-- The number of two words written one after the other, the first above the second. -/
theorem append_toNat_eq_mul_add {n m : Nat} (x : BitVec n) (y : BitVec m) :
    (x ++ y).toNat = x.toNat * 2 ^ m + y.toNat := by
  rw [BitVec.toNat_append, ← Nat.shiftLeft_add_eq_or_of_lt y.isLt, Nat.shiftLeft_eq]

/-- The number of four joined octets (R13). -/
theorem octetsToBits_toNat (o : OctetQuad) :
    (octetsToBits o).toNat =
      o.o0.toNat * 2 ^ 24 + o.o1.toNat * 2 ^ 16 + o.o2.toNat * 2 ^ 8 + o.o3.toNat := by
  calc (octetsToBits o).toNat
      = o.o0.toNat * 2 ^ (8 + (8 + 8)) + (o.o1.toNat * 2 ^ (8 + 8) + (o.o2.toNat * 2 ^ 8 + o.o3.toNat)) := by
        simp only [octetsToBits, append_toNat_eq_mul_add]
    _ = _ := by omega

/-- Position `8k+j` of four joined octets is position `j` of octet `k` (R13). -/
theorem octetsToBits_fieldBit (o : OctetQuad) (j : Nat) (h : j < 8) :
    fieldBit (octetsToBits o) j = o.o0.getMsbD j ∧ fieldBit (octetsToBits o) (8 + j) = o.o1.getMsbD j ∧
    fieldBit (octetsToBits o) (16 + j) = o.o2.getMsbD j ∧ fieldBit (octetsToBits o) (24 + j) = o.o3.getMsbD j := by
  have e₁ : 8 + j - 8 = j := by omega
  have e₂ : 16 + j - 8 - 8 = j := by omega
  have e₃ : 24 + j - 8 - 8 - 8 = j := by omega
  unfold fieldBit octetsToBits
  refine ⟨?_, ?_, ?_, ?_⟩
  · rw [BitVec.getMsbD_append, if_neg (by omega)]
  · rw [BitVec.getMsbD_append, if_pos (by omega), BitVec.getMsbD_append, if_neg (by omega), e₁]
  · rw [BitVec.getMsbD_append, if_pos (by omega), BitVec.getMsbD_append, if_pos (by omega),
      BitVec.getMsbD_append, if_neg (by omega), e₂]
  · rw [BitVec.getMsbD_append, if_pos (by omega), BitVec.getMsbD_append, if_pos (by omega),
      BitVec.getMsbD_append, if_pos (by omega), e₃]

/-- Position `j` of an octet is its bit `7-j`. -/
theorem octet_getMsbD (o : Octet) (j : Nat) (h : j < 8) : o.getMsbD j = o.getLsbD (7 - j) := by
  simp [BitVec.getMsbD, h]

/-- Joining the octets of a word gives the word back (R13). -/
@[simp] theorem octetsToBits_bitsToOctets (x : Word) : octetsToBits (bitsToOctets x) = x := by
  refine BitVec.eq_of_toNat_eq ?_
  rw [octetsToBits_toNat, bitsToOctets_o0_toNat, bitsToOctets_o1_toNat, bitsToOctets_o2_toNat,
    bitsToOctets_o3_toNat]
  omega

/-- Two quads are equal when their octets have the same numbers. -/
theorem octetQuad_eq_of_toNat {o p : OctetQuad} (h₀ : o.o0.toNat = p.o0.toNat) (h₁ : o.o1.toNat = p.o1.toNat)
    (h₂ : o.o2.toNat = p.o2.toNat) (h₃ : o.o3.toNat = p.o3.toNat) : o = p := by
  cases o
  cases p
  rw [OctetQuad.mk.injEq]
  exact ⟨BitVec.eq_of_toNat_eq h₀, BitVec.eq_of_toNat_eq h₁, BitVec.eq_of_toNat_eq h₂, BitVec.eq_of_toNat_eq h₃⟩

/-- The octets of a joined word are the octets it was joined from (R13). -/
@[simp] theorem bitsToOctets_octetsToBits (o : OctetQuad) : bitsToOctets (octetsToBits o) = o := by
  have := o.o0.isLt
  have := o.o1.isLt
  have := o.o2.isLt
  have := o.o3.isLt
  apply octetQuad_eq_of_toNat
  · rw [bitsToOctets_o0_toNat, octetsToBits_toNat]; omega
  · rw [bitsToOctets_o1_toNat, octetsToBits_toNat]; omega
  · rw [bitsToOctets_o2_toNat, octetsToBits_toNat]; omega
  · rw [bitsToOctets_o3_toNat, octetsToBits_toNat]; omega

/-- Settles O7: a word is the field of its own positions, and such a field's number is the weighted sum. -/
theorem fieldIndexIsReversedWordBit : Obligations.FieldIndexIsReversedWordBit := by
  intro x
  refine ⟨fieldBit_eq_getLsbD x, ?_, bitsToOctets_o0_toNat x, bitsToOctets_o3_toNat x⟩
  calc x.toNat = (fieldOf (fieldBit x)).toNat := by rw [fieldOf_fieldBit_self]
    _ = _ := fieldPrefix_toNat (fieldBit x) 32

/-- Settles O8: an octet is a slice of the word, a slice is the field of its positions, and its number is the weighted
sum. -/
theorem octetsAreWeightedFieldBits : Obligations.OctetsAreWeightedFieldBits := by
  intro x
  have first := slice_toNat_eq_sum x 24 0 rfl
  simp only [Nat.zero_add] at first
  exact ⟨first, slice_toNat_eq_sum x 16 8 rfl, slice_toNat_eq_sum x 8 16 rfl, slice_toNat_eq_sum x 0 24 rfl,
    rfl, rfl, rfl, rfl⟩

/-- Settles O9: the round trips and the number by arithmetic on the octets, the bits by position. -/
theorem octetConversionsAreInverse : Obligations.OctetConversionsAreInverse := by
  refine ⟨octetsToBits_bitsToOctets, fun o => ⟨bitsToOctets_octetsToBits o, octetsToBits_toNat o, fun j hj => ?_⟩⟩
  simpa only [octet_getMsbD _ j hj] using octetsToBits_fieldBit o j hj

end Sys2Proof.Machine

/-! ### The valid masks (R15) -/

namespace Sys2Proof.Machine

/-- R15's condition by positions: after a 0 stands a 0. -/
theorem contiguous_iff_fieldBit (m : Word) :
    Contiguous m ↔ ∀ i, i < 31 → fieldBit m i = false → fieldBit m (i + 1) = false := by
  refine forall₂_congr fun i hi => ?_
  rw [fieldBit_eq_getLsbD _ _ (by omega), fieldBit_eq_getLsbD _ _ (by omega), not_and, Bool.not_eq_true]

/-- The checker tests the formal condition (R15, R60). -/
theorem maskValid_iff_contiguous (m : Word) : maskValid m = true ↔ Contiguous m := by
  rw [maskValid_iff, contiguous_iff_fieldBit]
  refine forall₂_congr fun i _ => ?_
  simp [badPair]

/-- Below its first `q` bits, which are 0, the number `2^32 - 2^q` has ones up to bit 31. -/
theorem testBit_two_pow_sub_two_pow (q k : Nat) (hq : q ≤ 32) :
    (2 ^ 32 - 2 ^ q).testBit k = (decide (k < 32) && !decide (k < q)) := by
  have pos : 0 < 2 ^ q := by positivity
  have le : 2 ^ q ≤ 2 ^ 32 := Nat.pow_le_pow_right (by decide) hq
  have e : 2 ^ 32 - 2 ^ q = 2 ^ 32 - (2 ^ q - 1 + 1) := by omega
  rw [e, Nat.testBit_two_pow_sub_succ (by omega), Nat.testBit_two_pow_sub_one]

/-- Position `i` of /p is 1 exactly in the first `p` positions (R15). -/
theorem prefixMask_fieldBit (p i : Nat) (hi : i < 32) : fieldBit (prefixMask p) i = decide (i < p) := by
  rw [fieldBit_eq_getLsbD _ _ hi, prefixMask, BitVec.getLsbD_ofNat, testBit_two_pow_sub_two_pow _ _ (by omega),
    Bool.eq_iff_iff]
  simp only [Bool.and_eq_true, Bool.not_eq_true', decide_eq_true_eq, decide_eq_false_iff_not]
  omega

/-- Two words with the same 32 positions are the same. -/
theorem word_eq_of_fieldBit_eq {x y : Word} (h : ∀ i, i < 32 → fieldBit x i = fieldBit y i) : x = y :=
  BitVec.eq_of_getMsbD_eq h

/-- Every /p is valid (R15). -/
theorem prefixMask_contiguous (p : Nat) : Contiguous (prefixMask p) := by
  rw [contiguous_iff_fieldBit]
  intro i hi
  rw [prefixMask_fieldBit p i (by omega), prefixMask_fieldBit p (i + 1) (by omega)]
  simp only [decide_eq_false_iff_not]
  omega

/-- In a valid mask every position from a 0 on is 0. -/
theorem fieldBit_false_of_contiguous {m : Word} (hm : Contiguous m) {p : Nat} (hp : fieldBit m p = false)
    {i : Nat} (hpi : p ≤ i) (hi : i < 32) : fieldBit m i = false := by
  induction i, hpi using Nat.le_induction with
  | base => exact hp
  | succ i _ ih => exact (contiguous_iff_fieldBit m).mp hm i (by omega) (ih (by omega))

/-- A valid mask is /p for `p` the position of its first 0, or 32 where it has none (R15). -/
theorem exists_prefixMask_of_contiguous {m : Word} (hm : Contiguous m) : ∃ p, p ≤ 32 ∧ m = prefixMask p := by
  have past_end : fieldBit m 32 = false := BitVec.getMsbD_of_ge m 32 le_rfl
  have some_zero : ∃ p, fieldBit m p = false := ⟨32, past_end⟩
  refine ⟨Nat.find some_zero, Nat.find_min' some_zero past_end, word_eq_of_fieldBit_eq fun i hi => ?_⟩
  rw [prefixMask_fieldBit _ i hi]
  by_cases h : i < Nat.find some_zero
  · simpa [h] using Nat.find_min some_zero h
  · simpa [h] using fieldBit_false_of_contiguous hm (Nat.find_spec some_zero) (not_lt.mp h) hi

/-- The valid masks are the words /p (R15). -/
theorem contiguous_iff_exists_prefixMask (m : Word) : Contiguous m ↔ ∃ p, p ≤ 32 ∧ m = prefixMask p := by
  constructor
  · exact exists_prefixMask_of_contiguous
  · rintro ⟨p, -, rfl⟩
    exact prefixMask_contiguous p

/-- Words /p of different lengths differ at the end of the shorter one (R15). -/
theorem prefixMask_injective {p q : Nat} (hp : p ≤ 32) (hq : q ≤ 32) (h : prefixMask p = prefixMask q) : p = q := by
  have same_positions (i : Nat) (hi : i < 32) : i < p ↔ i < q := by
    rw [← decide_eq_decide, ← prefixMask_fieldBit p i hi, ← prefixMask_fieldBit q i hi, h]
  have := same_positions p
  have := same_positions q
  omega

/-- Settles O12: a valid mask has only zeros from its first 0 on, so its first 0 gives its length. -/
theorem validMasksAreTheThirtyThreePrefixes : Obligations.ValidMasksAreTheThirtyThreePrefixes := by
  refine ⟨maskValid_iff_contiguous, contiguous_iff_exists_prefixMask, fun p q => prefixMask_injective,
    fun p i _ hi => ?_⟩
  rw [← fieldBit_eq_getLsbD _ i hi, prefixMask_fieldBit p i hi]

end Sys2Proof.Machine

/-! ### What a command word computes from, and the reset values (R28, R29) -/

namespace Sys2Proof.Machine

/-- What a command word answers, legal or not, as a function of the word and the operand registers (R28, R46). -/
def wordOutcome (w a m c : Word) : Except Failure Results :=
  match decode w with
  | .ok i => outcomeOf i a m c
  | .error _ => .error .illegal

/-- Every command word ends by its outcome (R28). -/
theorem runCommandWord_eq_finish (w : Word) (s : State) :
    runCommandWord w s = .next (finish (wordOutcome w s.a s.m s.c) s) := by
  rcases runCommandWord_cases w s with ⟨i, hi, run⟩ | ⟨e, he, run⟩
  · rw [run, wordOutcome, hi]
  · rw [run, wordOutcome, he]; rfl

/-- A step that writes a word to CMD ends by the word's outcome. -/
theorem step_of_pending_command (s : State) (w : Word) (rest : List HostAction) (h : s.pending = .write 3 w :: rest) :
    step s = .next (finish (wordOutcome w s.a s.m s.c) { s with pending := rest }) := by
  rw [step_of_pending s _ rest h]
  exact runCommandWord_eq_finish w { s with pending := rest }

/-- What a command leaves in ST and the result registers does not depend on the state it ends in. -/
theorem finish_sameOutcome (o : Except Failure Results) (s t : State) : SameOutcome (finish o s) (finish o t) := by
  cases o with
  | error f => exact ⟨rfl, rfl, rfl, rfl⟩
  | ok r => exact ⟨rfl, rfl, rfl, rfl⟩

/-- A command writes nothing but ST and the result registers (R28). -/
theorem finish_frame (o : Except Failure Results) (s : State) :
    finish o s =
      { s with st := (finish o s).st, r0 := (finish o s).r0, r1 := (finish o s).r1, rc := (finish o s).rc } := by
  cases o with
  | error f => rfl
  | ok r => rfl

/-- No store writes ST or a result register (R32). -/
theorem storeReg_sameOutcome (r : Reg) (v : Word) (s : State) : SameOutcome (storeReg r v s) s := by
  cases r <;> exact ⟨rfl, rfl, rfl, rfl⟩

/-- A host write to any register but CMD stores (R32). -/
theorem step_of_pending_store (s : State) (idx : RegIndex) (v : Word) (rest : List HostAction)
    (h : s.pending = .write idx v :: rest) (hidx : regOfIndex idx ≠ .cmd) :
    step s = .next (storeReg (regOfIndex idx) v { s with pending := rest }) := by
  rw [step_of_pending s _ rest h]
  rcases hostWrite_cases idx v { s with pending := rest } with ⟨hcmd, -⟩ | ⟨-, stores⟩
  · exact absurd hcmd hidx
  · exact stores

/-- Settles O31: a command word ends by an outcome computed from the word and A, M, C, and a host write of an operand
register is a store. -/
theorem outcomeDependsOnOperandsAlone : Obligations.OutcomeDependsOnOperandsAlone := by
  constructor
  · rintro s s' w rest rest' h h' ⟨ha, hm, hc⟩
    refine ⟨_, _, step_of_pending_command s w rest h, step_of_pending_command s' w rest' h', ?_, finish_frame _ _⟩
    rw [ha, hm, hc]
    exact finish_sameOutcome _ _ _
  · intro s idx v rest h hidx
    have not_cmd : regOfIndex idx ≠ .cmd := by rcases hidx with rfl | rfl | rfl <;> decide
    exact ⟨_, step_of_pending_store s idx v rest h not_cmd, storeReg_sameOutcome _ _ _⟩

/-- After reset every register reads zero (R29). -/
theorem readReg_reset (r : Reg) : readReg r State.reset = 0 := by
  cases r <;> rfl

/-- Settles O40: the stored registers by the reset state, a host read by register. -/
theorem resetValues : Obligations.ResetValues :=
  ⟨rfl, rfl, rfl, rfl, rfl, rfl, rfl, fun idx => readReg_reset (regOfIndex idx)⟩

end Sys2Proof.Machine

/-! ### Host reads and writes (spec/20_memory.md), R32, R33 and R38 -/

namespace Sys2Proof.Machine

/-- Index 3 alone names CMD (R18). -/
theorem regOfIndex_ne_cmd {idx : RegIndex} (h : idx ≠ 3) : regOfIndex idx ≠ .cmd := by
  intro e
  apply h
  calc idx = indexOfReg (regOfIndex idx) := (indexOfReg_regOfIndex idx).symm
    _ = 3 := by rw [e]; rfl

/-- From index 4 on stand ST and the result registers (R18). -/
theorem regOfIndex_of_four_le {idx : RegIndex} (h : 4 ≤ idx.toNat) :
    regOfIndex idx = .st ∨ regOfIndex idx = .r0 ∨ regOfIndex idx = .r1 ∨ regOfIndex idx = .rc := by
  revert idx
  decide

/-- From index 5 on stand the result registers (R18). -/
theorem regOfIndex_of_five_le {idx : RegIndex} (h : 5 ≤ idx.toNat) :
    regOfIndex idx = .r0 ∨ regOfIndex idx = .r1 ∨ regOfIndex idx = .rc := by
  revert idx
  decide

/-! A host write: its effect as a function of the state, the writes that have none, and writing twice. -/

/-- The state after `HostWrite(idx, v)`: a word for CMD ends by its outcome, any other write is a store (R32). -/
def afterWrite (idx : RegIndex) (v : Word) (s : State) : State :=
  if idx = 3 then finish (wordOutcome v s.a s.m s.c) s else storeReg (regOfIndex idx) v s

@[simp] theorem afterWrite_cmd (w : Word) (s : State) : afterWrite 3 w s = finish (wordOutcome w s.a s.m s.c) s := rfl

theorem afterWrite_of_ne {idx : RegIndex} (h : idx ≠ 3) (v : Word) (s : State) :
    afterWrite idx v s = storeReg (regOfIndex idx) v s := if_neg h

/-- A step with a host write pending has exactly that effect (R32). -/
theorem step_of_pending_write (s : State) (idx : RegIndex) (v : Word) (rest : List HostAction)
    (h : s.pending = .write idx v :: rest) : step s = .next (afterWrite idx v { s with pending := rest }) := by
  by_cases hidx : idx = 3
  · subst hidx
    exact step_of_pending_command s v rest h
  · rw [afterWrite_of_ne hidx]
    exact step_of_pending_store s idx v rest h (regOfIndex_ne_cmd hidx)

/-- A write from index 4 on has no effect (R32). -/
theorem afterWrite_of_four_le {idx : RegIndex} (h : 4 ≤ idx.toNat) (v : Word) (s : State) :
    afterWrite idx v s = s := by
  have not_cmd : idx ≠ 3 := by rintro rfl; exact absurd h (by decide)
  rw [afterWrite_of_ne not_cmd]
  rcases regOfIndex_of_four_le h with e | e | e | e <;> rw [e] <;> rfl

/-- A host write leaves the host's remaining actions (R36). -/
@[simp] theorem afterWrite_pending (idx : RegIndex) (v : Word) (s : State) :
    (afterWrite idx v s).pending = s.pending := by
  by_cases hidx : idx = 3
  · subst hidx
    exact finish_pending _ s
  · rw [afterWrite_of_ne hidx]
    cases regOfIndex idx <;> rfl

/-- A command that ends again by the same outcome leaves what it left before. -/
theorem finish_repeat (o : Except Failure Results) (s : State) (p : List HostAction) :
    finish o { finish o s with pending := p } = finish o { s with pending := p } := by
  cases o with
  | error f => rfl
  | ok r => rfl

/-- A store of the value that is there leaves what it left before. -/
theorem storeReg_repeat (r : Reg) (v : Word) (s : State) (p : List HostAction) :
    storeReg r v { storeReg r v s with pending := p } = storeReg r v { s with pending := p } := by
  cases r <;> rfl

/-- Writing twice leaves what writing once leaves: a command does not write the operands of its own outcome (R38). -/
theorem afterWrite_repeat (idx : RegIndex) (v : Word) (s : State) (p : List HostAction) :
    afterWrite idx v { afterWrite idx v s with pending := p } = afterWrite idx v { s with pending := p } := by
  by_cases hidx : idx = 3
  · subst hidx
    simpa only [afterWrite_cmd, finish_a, finish_m, finish_c] using finish_repeat (wordOutcome v s.a s.m s.c) s p
  · simp only [afterWrite_of_ne hidx]
    exact storeReg_repeat _ v s p

/-! A host read: the value by index, and what it does not depend on. -/

/-- The host's side of the state has no influence on what a read returns (R36). -/
theorem hostRead_hostSide (idx : RegIndex) (s : State) (p : List HostAction) (o : List Word) :
    hostRead idx { s with pending := p, observed := o } = hostRead idx s := by
  unfold hostRead
  cases regOfIndex idx <;> rfl

/-- A step with a host read pending appends the value read and changes no register (R33). -/
theorem step_of_pending_read (s : State) (idx : RegIndex) (rest : List HostAction) (h : s.pending = .read idx :: rest) :
    step s = .next { s with pending := rest, observed := s.observed ++ [hostRead idx s] } := by
  rw [step_of_pending s _ rest h, ← hostRead_hostSide idx s rest s.observed]
  rfl

/-- ST reads as its code below 28 zeros (R23). -/
theorem status_setWidth_eq_append (k : StatusCode) : k.setWidth 32 = (0#28 ++ k : BitVec (28 + 4)) := by
  revert k
  decide

/-- What a read returns, the registers listed by index (R33). -/
theorem hostRead_eq_listed (idx : RegIndex) (s : State) :
    hostRead idx s =
      (([s.a, s.m, s.c, 0, (0#28 ++ s.st : BitVec (28 + 4)), s.r0, s.r1, s.rc] : List Word)[idx.toNat]?).getD 0 := by
  rw [← status_setWidth_eq_append, ← indexOfReg_regOfIndex idx, hostRead, regOfIndex_indexOfReg]
  cases regOfIndex idx <;> rfl

/-- A result register reads zero unless the last command succeeded (R33). -/
theorem hostRead_result_eq_zero {idx : RegIndex} {s : State} (results : ResultsOnlyOnSuccess s) (failed : s.st ≠ 1)
    (h : 5 ≤ idx.toNat) : hostRead idx s = 0 := by
  obtain ⟨h0, h1, hc⟩ := results failed
  rw [hostRead]
  rcases regOfIndex_of_five_le h with e | e | e <;> rw [e]
  · exact h0
  · exact h1
  · exact hc

/-! Short runs. -/

theorem run_one_of_step {s t : State} (h : step s = .next t) : run 1 s = .next t :=
  run_of_step s t 0 h

theorem run_two_of_steps {s t u : State} (h : step s = .next t) (k : step t = .next u) : run 2 s = .next u :=
  (run_of_step s t 1 h).trans (run_one_of_step k)

/-- Settles O33: the effect of a host write, read off index by index. -/
theorem hostWriteByIndex : Obligations.HostWriteByIndex := by
  intro s v rest
  refine ⟨step_of_pending_write s 0 v rest, step_of_pending_write s 1 v rest, step_of_pending_write s 2 v rest,
    fun h => ?_, fun idx hidx h => ?_⟩
  · have ends := step_of_pending_command s v rest h
    refine ⟨fun i hi => ?_, fun e he => ?_, _, ends, finish_a _ _, finish_m _ _, finish_c _ _⟩
    · rw [ends, exec_eq_finish, wordOutcome, hi]
    · rw [ends, wordOutcome, he]
      rfl
  · rw [step_of_pending_write s idx v rest h, afterWrite_of_four_le hidx]

/-- Settles O34: a read returns the register listed at its index, and a consistent state has zeros there after a
failure. -/
theorem hostReadByIndex : Obligations.HostReadByIndex := by
  intro s idx rest h
  have reads := step_of_pending_read s idx rest h
  refine ⟨?_, fun consistent failed hidx => ?_⟩
  · rw [reads, hostRead_eq_listed]
  · obtain ⟨-, results, -⟩ := consistent
    rw [reads, hostRead_result_eq_zero results failed hidx]

/-- Settles O35: the second read finds the registers as the first did, and the second write repeats the first. -/
theorem hostAccessesAreIdempotent : Obligations.HostAccessesAreIdempotent := by
  refine ⟨fun s idx => ?_, fun s idx v => ?_, fun s idx v hidx => ?_⟩
  · refine ⟨hostRead idx s, _,
      run_two_of_steps (step_of_pending_read _ idx _ rfl) (step_of_pending_read _ idx _ rfl), ?_⟩
    simp only [hostRead_hostSide, List.append_assoc, List.singleton_append]
  · refine ⟨_, run_two_of_steps (step_of_pending_write _ idx v [.write idx v] rfl)
      (step_of_pending_write _ idx v [] (afterWrite_pending idx v _)), ?_⟩
    rw [run_one_of_step (step_of_pending_write _ idx v [] rfl), afterWrite_repeat]
  · rw [run_one_of_step (step_of_pending_write _ idx v _ rfl), afterWrite_of_four_le hidx]

end Sys2Proof.Machine

/-! ### Command words (spec/30_encoding.md), R46 and R49 -/

namespace Sys2Proof

/-- A command without host flag is selected by a word whose flag is clear, and by no other (R46). -/
theorem withoutHostFlag_eq_ok_iff (h : Bool) (i j : Instr) : withoutHostFlag h i = .ok j ↔ h = false ∧ i = j := by
  cases h <;> simp [withoutHostFlag]

/-- A word that selects a command holds zeros in `RSV`, the command's opcode in `OPC` and its flag in `H` (R45, R46). -/
theorem fields_of_decode_eq_ok {w : Word} {i : Instr} (h : decode w = .ok i) :
    reservedField w = 0 ∧ (opcField w).toNat = i.opcode.toNat ∧ hostFlagField w = i.hostFlag := by
  have reserved : reservedField w = 0 := by
    by_contra set
    rw [decode_of_reserved w set] at h
    cases h
  rw [decode, if_neg (not_not_intro reserved)] at h
  refine ⟨reserved, ?_⟩
  split at h
  case h_1 opc | h_2 opc | h_3 opc | h_4 opc | h_5 opc =>
    obtain ⟨flag, rfl⟩ := (withoutHostFlag_eq_ok_iff _ _ _).mp h
    exact ⟨opc, flag⟩
  case h_6 opc | h_7 opc =>
    cases h
    exact ⟨opc, rfl⟩
  case h_8 => cases h

/-- The opcodes of the commands are 1 to 7 (R47). -/
theorem Instr.opcode_bounds (i : Instr) : 1 ≤ i.opcode.toNat ∧ i.opcode.toNat ≤ 7 := by
  cases i <;> simp [Instr.opcode]

/-- Only the opcodes 6 and 7 have the host flag (R45). -/
theorem Instr.six_le_opcode_of_hostFlag {i : Instr} (h : i.hostFlag = true) : 6 ≤ i.opcode.toNat := by
  cases i with
  | mkaddr _ | mkaddrc _ => simp [Instr.opcode]
  | vmask | c2m | m2c | netid | bcast => cases h

/-- A word with a field that no command has selects none (R49). -/
theorem decode_eq_error_of_fields {w : Word}
    (h : reservedField w ≠ 0 ∨ (opcField w).toNat = 0 ∨ 8 ≤ (opcField w).toNat ∨
      (hostFlagField w = true ∧ 1 ≤ (opcField w).toNat ∧ (opcField w).toNat ≤ 5)) :
    ∃ e, decode w = .error e := by
  cases decoded : decode w with
  | error e => exact ⟨e, rfl⟩
  | ok i =>
    exfalso
    obtain ⟨reserved, opc, flag⟩ := fields_of_decode_eq_ok decoded
    have bounds := i.opcode_bounds
    rcases h with set | zero | high | ⟨set, -, plain⟩
    · exact set reserved
    · omega
    · omega
    · have := Instr.six_le_opcode_of_hostFlag (flag.symm.trans set)
      omega

end Sys2Proof

namespace Sys2Proof.Machine

/-- A step that writes a word without command to CMD fails with `ERR_ILLEGAL`, whatever the operands (R49). -/
theorem step_of_pending_illegal_word (s : State) (w : Word) (rest : List HostAction) {e : IllegalWord}
    (h : s.pending = .write 3 w :: rest) (illegal : decode w = .error e) :
    step s = .next (finishFail .illegal { s with pending := rest }) := by
  rw [step_of_pending_command s w rest h, wordOutcome, illegal]
  rfl

/-- Settles O5: a word with one of these fields selects no command, since each command's own fields are otherwise, and
`finishFail` writes the code 8 and the zeros. -/
theorem illegalWordFailsWithCodeEight : Obligations.IllegalWordFailsWithCodeEight := by
  intro s w rest h fields
  obtain ⟨e, illegal⟩ := decode_eq_error_of_fields fields
  exact step_of_pending_illegal_word s w rest h illegal

end Sys2Proof.Machine

/-! ### Mask validation (spec/40_mask_validation.md), R60 to R62 -/

namespace Sys2Proof.Machine

/-! What VMASK does, by the formal condition on M. -/

/-- `validate_mask` accepts a contiguous mask (R60). -/
theorem validateMask_of_contiguous {m : Word} (h : Contiguous m) : validateMask m = .ok () := by
  rcases validateMask_cases m with ⟨-, accepts⟩ | ⟨invalid, -⟩
  · exact accepts
  · rw [(maskValid_iff_contiguous m).mpr h] at invalid
    cases invalid

/-- `validate_mask` rejects every other mask (R60). -/
theorem validateMask_of_not_contiguous {m : Word} (h : ¬Contiguous m) : validateMask m = .error .mask := by
  rcases validateMask_cases m with ⟨valid, -⟩ | ⟨-, rejects⟩
  · exact absurd ((maskValid_iff_contiguous m).mp valid) h
  · exact rejects

/-- VMASK on a contiguous mask (R60). -/
theorem exec_vmask_of_contiguous {s : State} (h : Contiguous s.m) :
    exec .vmask s = .next { s with st := 1, r0 := 0, r1 := 0, rc := 0 } := by
  rw [exec_eq_finish, outcomeOf, validateMask_of_contiguous h]
  rfl

/-- VMASK on any other mask (R60). -/
theorem exec_vmask_of_not_contiguous {s : State} (h : ¬Contiguous s.m) :
    exec .vmask s = .next { s with st := 4, r0 := 0, r1 := 0, rc := 0 } := by
  rw [exec_eq_finish, outcomeOf, validateMask_of_not_contiguous h]
  rfl

/-- The verdict VMASK leaves in ST: 1 or 4, as M is contiguous or not (R60). -/
theorem exec_vmask_verdict (s : State) :
    ∃ t, exec .vmask s = .next t ∧ (t.st = 1 ↔ Contiguous s.m) ∧ (t.st = 4 ↔ ¬Contiguous s.m) := by
  by_cases h : Contiguous s.m
  · exact ⟨_, exec_vmask_of_contiguous h, by simp [h], by simp [h]⟩
  · exact ⟨_, exec_vmask_of_not_contiguous h, by simp [h], by simp [h]⟩

/-! Where a mask that is not contiguous fails: by position, by word bit, and in the word of bad pairs. -/

/-- A mask is invalid when some position holds 0 and the next one 1 (R60). -/
theorem not_contiguous_iff_exists_position (m : Word) :
    ¬Contiguous m ↔ ∃ i, i < 31 ∧ m.getLsbD (31 - i) = false ∧ m.getLsbD (31 - (i + 1)) = true := by
  simp only [Contiguous, not_forall, not_not, exists_prop]

/-- The same on the word: positions `i`, `i+1` are word bits `n+1`, `n` with `n` = `30-i` (R61). -/
theorem not_contiguous_iff_exists_bit (m : Word) :
    ¬Contiguous m ↔ ∃ n, n < 31 ∧ m.getLsbD (n + 1) = false ∧ m.getLsbD n = true := by
  rw [not_contiguous_iff_exists_position]
  constructor
  · rintro ⟨i, hi, zero, one⟩
    have upper : 30 - i + 1 = 31 - i := by omega
    have lower : 30 - i = 31 - (i + 1) := by omega
    exact ⟨30 - i, by omega, upper ▸ zero, lower ▸ one⟩
  · rintro ⟨n, hn, zero, one⟩
    have upper : 31 - (30 - n) = n + 1 := by omega
    have lower : 31 - (30 - n + 1) = n := by omega
    exact ⟨30 - n, by omega, upper.symm ▸ zero, lower.symm ▸ one⟩

/-- R61's word `((~M) >> 1) & M`. -/
def badPairWord (m : Word) : Word := ((~~~m) >>> 1) &&& m

/-- Bit `n` of that word marks the pair `n+1`, `n`; the shift brings in a zero at bit 31 (R61). -/
theorem badPairWord_getLsbD (m : Word) (n : Nat) :
    (badPairWord m).getLsbD n = (decide (n < 31) && (!m.getLsbD (n + 1) && m.getLsbD n)) := by
  have in_word : n + 1 < 32 ↔ n < 31 := by omega
  simp only [badPairWord, BitVec.getLsbD_and, BitVec.getLsbD_ushiftRight, BitVec.getLsbD_not, Nat.add_comm 1 n,
    in_word, Bool.and_assoc]

/-- A word is not zero when one of its bits is set. -/
theorem word_ne_zero_iff_exists_bit (x : Word) : x ≠ 0 ↔ ∃ n, x.getLsbD n = true := by
  constructor
  · contrapose!
    exact fun no_bit => BitVec.eq_of_getLsbD_eq fun n _ => by simp [no_bit n]
  · rintro ⟨n, set⟩ rfl
    simp at set

/-- The word of bad pairs is not zero exactly on an invalid mask (R61). -/
theorem not_contiguous_iff_badPairWord_ne_zero (m : Word) : ¬Contiguous m ↔ badPairWord m ≠ 0 := by
  rw [not_contiguous_iff_exists_bit, word_ne_zero_iff_exists_bit]
  refine exists_congr fun n => ?_
  simp only [badPairWord_getLsbD, Bool.and_eq_true, Bool.not_eq_true', decide_eq_true_eq]

/-! C2M in the accepted range, whose result VMASK then judges. -/

/-- The mask of leading ones is contiguous (R63). -/
theorem leadingOnes_contiguous (c : Int) : Contiguous (leadingOnes c) := by
  rw [contiguous_iff_fieldBit]
  intro i hi
  rw [leadingOnes_fieldBit c i (by omega), leadingOnes_fieldBit c (i + 1) (by omega)]
  simp only [decide_eq_false_iff_not]
  omega

/-- C2M with C from 1 to 30 leaves the leading ones in R0 (R63). -/
theorem exec_c2m_of_in_range {s : State} (low : 1 ≤ s.c.toInt) (high : s.c.toInt ≤ 30) :
    exec .c2m s = .next { s with st := 1, r0 := leadingOnes s.c.toInt, r1 := 0, rc := 0 } := by
  rcases maskFromCidr_cases s.c.toInt with ⟨out, -⟩ | ⟨-, -, builds⟩
  · omega
  · rw [exec_eq_finish, outcomeOf, sext32, builds]
    rfl

/-- The source's alternating mask `1,0,1,0,...` is not contiguous: positions 1 and 2 (R62). -/
theorem alternating_not_contiguous : ¬Contiguous 0xAAAAAAAA :=
  (not_contiguous_iff_exists_position _).mpr ⟨1, by decide⟩

/-- Settles O10: VMASK on a contiguous and on any other mask. -/
theorem vmaskJudgesContiguity : Obligations.VmaskJudgesContiguity :=
  ⟨by decide, fun _ => ⟨exec_vmask_of_contiguous, exec_vmask_of_not_contiguous⟩⟩

/-- Settles O11: the verdict is contiguity, and contiguity is a property of the word of bad pairs, of its bits, and of
the 33 masks /p. -/
theorem vmaskVerdictOnTheWord : Obligations.VmaskVerdictOnTheWord := by
  intro s
  obtain ⟨t, runs, valid, invalid⟩ := exec_vmask_verdict s
  refine ⟨t, runs, invalid.trans (not_contiguous_iff_badPairWord_ne_zero s.m),
    invalid.trans (not_contiguous_iff_exists_bit s.m), valid.trans (contiguous_iff_exists_prefixMask s.m),
    fun n hn => (badPairWord_getLsbD s.m n).trans ?_, badPairWord_getLsbD s.m 31⟩
  simp only [hn, decide_true, Bool.true_and]

/-- Settles O13: the verdict by positions, on the leading ones C2M builds, and on the alternating mask. -/
theorem checkerProperties : Obligations.CheckerProperties := by
  refine ⟨fun s => ?_, fun s low high => ?_, fun s alternating => ?_⟩
  · obtain ⟨t, runs, valid, -⟩ := exec_vmask_verdict s
    exact ⟨t, runs, (not_congr valid).trans (not_contiguous_iff_exists_position s.m)⟩
  · exact ⟨_, _, exec_c2m_of_in_range low high, exec_vmask_of_contiguous (leadingOnes_contiguous _), rfl, rfl⟩
  · have invalid : ¬Contiguous s.m := alternating ▸ alternating_not_contiguous
    exact ⟨_, exec_vmask_of_not_contiguous invalid, rfl⟩

end Sys2Proof.Machine

/-! ### The converters (spec/41_cidr_conversion.md), R63 to R66 -/

namespace Sys2Proof.Machine

/-! C as a signed and as an unsigned number (R64). -/

/-- A word of number at most 30 has the same number read signed. -/
theorem toInt_eq_toNat_of_le_thirty {c : Word} (h : c.toNat ≤ 30) : c.toInt = c.toNat :=
  BitVec.toInt_eq_toNat_of_lt (by omega)

/-- The two signed comparisons are one unsigned range test: a negative word has a number from `2^31` up (R64). -/
theorem cidrOutOfRange_iff_toNat (c : Word) : CidrOutOfRange c ↔ c.toNat = 0 ∨ 30 < c.toNat := by
  have := c.isLt
  rw [CidrOutOfRange, BitVec.toInt_eq_toNat_cond]
  split <;> omega

/-- The accepted range is the same read unsigned (R64). -/
theorem toNat_in_range {c : Word} (low : 1 ≤ c.toInt) (high : c.toInt ≤ 30) : 1 ≤ c.toNat ∧ c.toNat ≤ 30 := by
  have accepted : ¬CidrOutOfRange c := by rw [CidrOutOfRange]; omega
  rw [cidrOutOfRange_iff_toNat] at accepted
  omega

/-! The words /p: as leading ones, as shifted words, and by their number (R64). -/

/-- The mask of `p` leading ones is /p (R63, R64). -/
theorem leadingOnes_eq_prefixMask (p : Nat) : leadingOnes p = prefixMask p :=
  word_eq_of_fieldBit_eq fun i hi => by
    rw [leadingOnes_fieldBit _ i hi, prefixMask_fieldBit p i hi, decide_eq_decide, Nat.cast_lt]

/-- Word bit `n` of /p is 1 from bit `32-p` up (R64). -/
theorem prefixMask_getLsbD (p n : Nat) (hn : n < 32) : (prefixMask p).getLsbD n = decide (32 - p ≤ n) := by
  rw [prefixMask, BitVec.getLsbD_ofNat, testBit_two_pow_sub_two_pow _ _ (by omega), ← decide_not]
  simp only [hn, not_lt, decide_true, Bool.true_and]

/-- R64's constant has every bit set. -/
theorem allOnes_word_eq : 0xFFFFFFFF#32 = BitVec.allOnes 32 := rfl

/-- /p is the all-ones word shifted left by `32-p` (R64). -/
theorem prefixMask_eq_shiftLeft (p : Nat) : prefixMask p = 0xFFFFFFFF#32 <<< (32 - p) := by
  refine BitVec.eq_of_getLsbD_eq fun n hn => ?_
  have in_word : n - (32 - p) < 32 := by omega
  rw [prefixMask_getLsbD p n hn, allOnes_word_eq, BitVec.getLsbD_shiftLeft, BitVec.getLsbD_allOnes, ← decide_not]
  simp only [hn, in_word, not_lt, decide_true, Bool.true_and, Bool.and_true]

/-- /p is the complement of the all-ones word shifted right by `p` (R64). -/
theorem prefixMask_eq_not_ushiftRight (p : Nat) : prefixMask p = ~~~(0xFFFFFFFF#32 >>> p) := by
  refine BitVec.eq_of_getLsbD_eq fun n hn => ?_
  have past_end : 32 - p ≤ n ↔ ¬p + n < 32 := by omega
  rw [prefixMask_getLsbD p n hn, allOnes_word_eq, BitVec.getLsbD_not, BitVec.getLsbD_ushiftRight,
    BitVec.getLsbD_allOnes, ← decide_not]
  simp only [hn, past_end, decide_true, Bool.true_and]

/-- The number of /p is the difference it is written with, which fits the word (R64). -/
theorem prefixMask_toNat (p : Nat) : (prefixMask p).toNat = 2 ^ 32 - 2 ^ (32 - p) := by
  have pos : 0 < 2 ^ (32 - p) := by positivity
  rw [prefixMask, BitVec.toNat_ofNat]
  exact Nat.mod_eq_of_lt (by omega)

/-! How many ones a valid mask has (R65). -/

/-- Of the numbers below `n`, `n - q` are at least `q`. -/
theorem countP_range_le (q n : Nat) : (List.range n).countP (fun k => decide (q ≤ k)) = n - q := by
  induction n with
  | zero => simp
  | succ n ih =>
    rw [List.range_succ, List.countP_append, ih, List.countP_singleton]
    simp only [decide_eq_true_eq]
    split <;> omega

/-- /p has `p` ones (R65). -/
theorem popcount_prefixMask {p : Nat} (hp : p ≤ 32) : popcount (prefixMask p) = p := by
  have bits : ∀ n ∈ List.range 32, (prefixMask p).getLsbD n = true ↔ decide (32 - p ≤ n) = true := by
    intro n hn
    rw [prefixMask_getLsbD p n (List.mem_range.mp hn)]
  rw [popcount, List.countP_congr bits, countP_range_le]
  omega

/-- A valid mask is /p for `p` the number of its ones (R65). -/
theorem prefixMask_popcount {m : Word} (h : Contiguous m) : prefixMask (popcount m) = m := by
  obtain ⟨p, hp, rfl⟩ := exists_prefixMask_of_contiguous h
  rw [popcount_prefixMask hp]

/-! What the two commands do, by their operands. -/

/-- C2M with C out of range (R63). -/
theorem exec_c2m_of_out_of_range {s : State} (h : CidrOutOfRange s.c) :
    exec .c2m s = .next { s with st := 5, r0 := 0, r1 := 0, rc := 0 } := by
  rcases maskFromCidr_cases s.c.toInt with ⟨-, refuses⟩ | ⟨low, high, -⟩
  · rw [exec_eq_finish, outcomeOf, sext32, refuses]
    rfl
  · rw [CidrOutOfRange] at h
    omega

/-- C2M with C of number 1 to 30 leaves the word /C in R0 (R64). -/
theorem exec_c2m_of_toNat {s : State} (low : 1 ≤ s.c.toNat) (high : s.c.toNat ≤ 30) :
    exec .c2m s = .next { s with st := 1, r0 := prefixMask s.c.toNat, r1 := 0, rc := 0 } := by
  have signed := toInt_eq_toNat_of_le_thirty high
  rw [exec_c2m_of_in_range (by omega) (by omega), signed, leadingOnes_eq_prefixMask]

/-- M2C on a contiguous mask (R65). -/
theorem exec_m2c_of_contiguous {s : State} (h : Contiguous s.m) :
    exec .m2c s = .next { s with st := 1, r0 := 0, r1 := 0, rc := BitVec.ofNat 32 (popcount s.m) } := by
  rw [exec_eq_finish, outcomeOf, cidrFromMask, validateMask_of_contiguous h]
  rfl

/-- M2C on any other mask (R65). -/
theorem exec_m2c_of_not_contiguous {s : State} (h : ¬Contiguous s.m) :
    exec .m2c s = .next { s with st := 4, r0 := 0, r1 := 0, rc := 0 } := by
  rw [exec_eq_finish, outcomeOf, cidrFromMask, validateMask_of_not_contiguous h]
  rfl

/-- The lengths /p that C2M never makes a mask of (R66). -/
theorem cidrOutOfRange_of_unmade {p : Nat} (h : p = 0 ∨ p = 31 ∨ p = 32) : CidrOutOfRange (BitVec.ofNat 32 p) := by
  rw [cidrOutOfRange_iff_toNat]
  rcases h with rfl | rfl | rfl <;> decide

/-- Settles O14: in range the leading ones, given position by position and contiguous, out of range the failure. -/
theorem c2mBuildsTheLeadingOnes : Obligations.C2mBuildsTheLeadingOnes := by
  refine ⟨by decide, fun s => ⟨fun low high => ?_, exec_c2m_of_out_of_range⟩⟩
  refine ⟨leadingOnes s.c.toInt, fun i hi => ?_, leadingOnes_contiguous _, exec_c2m_of_in_range low high⟩
  rw [← fieldBit_eq_getLsbD _ i hi, leadingOnes_fieldBit _ i hi]

/-- Settles O15: the result is the word /c, which has the three forms, and the range test is the unsigned one. -/
theorem c2mWordForms : Obligations.C2mWordForms := by
  refine ⟨fun s c low high hc => ?_, fun s => ?_⟩
  · have number : s.c.toNat = c := by rw [hc, BitVec.toNat_ofNat]; omega
    have builds := exec_c2m_of_toNat (s := s) (by omega) (by omega)
    rw [number] at builds
    exact ⟨_, builds, prefixMask_eq_shiftLeft c, prefixMask_eq_not_ushiftRight c, prefixMask_toNat c⟩
  · rw [← cidrOutOfRange_iff_toNat]
    by_cases out : CidrOutOfRange s.c
    · exact ⟨_, exec_c2m_of_out_of_range out, by simp [out]⟩
    · have accepted := out
      rw [cidrOutOfRange_iff_toNat] at accepted
      exact ⟨_, exec_c2m_of_toNat (by omega) (by omega), by simp [out]⟩

/-- Settles O16: the count fits the register word, and it is the length of the list of set bits. -/
theorem m2cCountsTheOnesOfAValidMask : Obligations.M2cCountsTheOnesOfAValidMask := by
  refine ⟨by decide, fun s => ⟨fun valid => ?_, exec_m2c_of_not_contiguous⟩⟩
  refine ⟨BitVec.ofNat 32 (popcount s.m), ?_, ?_, exec_m2c_of_contiguous valid⟩
  · rw [popcount_toNat, popcount, List.countP_eq_length_filter]
  · rw [popcount_toNat]
    exact popcount_le s.m

/-- Settles O18: C2M makes the word /p, M2C counts its `p` ones, and a valid mask is the word /p of its
own count. -/
theorem convertersRoundTrip : Obligations.ConvertersRoundTrip := by
  refine ⟨fun s low high => ?_, fun s p unmade hm => ?_, fun s valid => ?_⟩
  · obtain ⟨one_le, le_thirty⟩ := toNat_in_range low high
    have made := prefixMask_contiguous s.c.toNat
    refine ⟨_, _, _, exec_c2m_of_toNat one_le le_thirty, exec_m2c_of_contiguous made, exec_vmask_of_contiguous made,
      rfl, rfl, ?_, rfl⟩
    simp only [popcount_prefixMask (le_thirty.trans (by decide)), BitVec.ofNat_toNat, BitVec.setWidth_eq]
  · have valid : Contiguous s.m := hm ▸ prefixMask_contiguous p
    have count : popcount s.m = p := by rw [hm, popcount_prefixMask (by omega)]
    have counts := exec_m2c_of_contiguous valid
    rw [count] at counts
    exact ⟨_, _, counts, exec_c2m_of_out_of_range (cidrOutOfRange_of_unmade unmade), rfl, rfl, rfl⟩
  · by_cases out : CidrOutOfRange (BitVec.ofNat 32 (popcount s.m))
    · refine ⟨_, _, exec_m2c_of_contiguous valid, exec_c2m_of_out_of_range out, fun low high => ?_⟩
      rw [cidrOutOfRange_iff_toNat] at out
      dsimp only at low high
      omega
    · rw [cidrOutOfRange_iff_toNat] at out
      refine ⟨_, _, exec_m2c_of_contiguous valid, exec_c2m_of_toNat (by dsimp only; omega) (by dsimp only; omega),
        fun _ _ => ⟨rfl, ?_⟩⟩
      dsimp only
      rw [popcount_toNat, prefixMask_popcount valid]

end Sys2Proof.Machine

/-! ### The derivations (spec/42_derivation.md), R68 to R71 -/

namespace Sys2Proof.Machine

/-! The two datapaths on one word bit: a host position is forced, a network position keeps the address (R68, R70). -/

/-- The AND datapath bit by bit (R68). -/
theorem networkIdBits_getLsbD (a m : Word) (n : Nat) :
    (networkIdBits a m).getLsbD n = (a.getLsbD n && m.getLsbD n) := BitVec.getLsbD_and

/-- The OR datapath bit by bit (R70). -/
theorem broadcastBits_getLsbD (a m : Word) {n : Nat} (hn : n < 32) :
    (broadcastBits a m).getLsbD n = ((a.getLsbD n && m.getLsbD n) || !m.getLsbD n) := by
  simp only [broadcastBits, BitVec.getLsbD_or, BitVec.getLsbD_and, BitVec.getLsbD_not, hn, decide_true, Bool.true_and]

theorem networkIdBits_of_host {a m : Word} {n : Nat} (host : m.getLsbD n = false) :
    (networkIdBits a m).getLsbD n = false := by
  rw [networkIdBits_getLsbD, host, Bool.and_false]

theorem networkIdBits_of_network {a m : Word} {n : Nat} (network : m.getLsbD n = true) :
    (networkIdBits a m).getLsbD n = a.getLsbD n := by
  rw [networkIdBits_getLsbD, network, Bool.and_true]

theorem broadcastBits_of_host {a m : Word} {n : Nat} (hn : n < 32) (host : m.getLsbD n = false) :
    (broadcastBits a m).getLsbD n = true := by
  rw [broadcastBits_getLsbD a m hn, host, Bool.not_false, Bool.or_true]

/-- At a network position the OR datapath forces nothing (R71). -/
theorem broadcastBits_of_network {a m : Word} {n : Nat} (hn : n < 32) (network : m.getLsbD n = true) :
    (broadcastBits a m).getLsbD n = (networkIdBits a m).getLsbD n := by
  rw [broadcastBits_getLsbD a m hn, networkIdBits_getLsbD, network, Bool.not_true, Bool.or_false]

/-! The two results as words (R69, R71). -/

/-- The network id of a network id is itself (R69). -/
theorem networkIdBits_idem (a m : Word) : networkIdBits (networkIdBits a m) m = networkIdBits a m := by
  rw [networkIdBits, networkIdBits, BitVec.and_assoc, BitVec.and_self]

/-- The source's formula is the single OR of the address with the inverted mask (R71). -/
theorem broadcastBits_eq_or_not (a m : Word) : broadcastBits a m = a ||| ~~~m := by
  refine BitVec.eq_of_getLsbD_eq fun n hn => ?_
  rw [broadcastBits_getLsbD a m hn, BitVec.getLsbD_or, BitVec.getLsbD_not]
  cases m.getLsbD n with
  | false => simp [hn]
  | true => simp

/-- The broadcast address is the network id with the host positions forced (R71). -/
theorem broadcastBits_eq_networkIdBits_or_not (a m : Word) : broadcastBits a m = networkIdBits a m ||| ~~~m := rfl

/-- The broadcast address of a broadcast address is itself (R71). -/
theorem broadcastBits_idem (a m : Word) : broadcastBits (broadcastBits a m) m = broadcastBits a m := by
  rw [broadcastBits_eq_or_not, broadcastBits_eq_or_not, BitVec.or_assoc, BitVec.or_self]

/-- The two results differ at every host position, so that they are equal only without one (R71). -/
theorem broadcastBits_eq_networkIdBits_iff (a m : Word) :
    broadcastBits a m = networkIdBits a m ↔ m = BitVec.allOnes 32 := by
  constructor
  · intro same
    refine BitVec.eq_of_getLsbD_eq fun n hn => ?_
    rw [BitVec.getLsbD_allOnes, decide_eq_true hn]
    by_contra clear
    have host : m.getLsbD n = false := Bool.eq_false_iff.mpr clear
    have forced := broadcastBits_of_host (a := a) hn host
    rw [same, networkIdBits_of_host host] at forced
    cases forced
  · rintro rfl
    rw [broadcastBits_eq_networkIdBits_or_not, BitVec.not_allOnes, BitVec.or_zero]

/-! What the two commands do, by the mask. -/

/-- NETID on a contiguous mask (R68). -/
theorem exec_netid_of_contiguous {s : State} (h : Contiguous s.m) :
    exec .netid s = .next { s with st := 1, r0 := networkIdBits s.a s.m, r1 := 0, rc := 0 } := by
  rw [exec_eq_finish, outcomeOf, networkId, validateMask_of_contiguous h]
  rfl

/-- NETID on any other mask delivers no AND (R68). -/
theorem exec_netid_of_not_contiguous {s : State} (h : ¬Contiguous s.m) :
    exec .netid s = .next { s with st := 4, r0 := 0, r1 := 0, rc := 0 } := by
  rw [exec_eq_finish, outcomeOf, networkId, validateMask_of_not_contiguous h]
  rfl

/-- BCAST on a contiguous mask (R70). -/
theorem exec_bcast_of_contiguous {s : State} (h : Contiguous s.m) :
    exec .bcast s = .next { s with st := 1, r0 := broadcastBits s.a s.m, r1 := 0, rc := 0 } := by
  rw [exec_eq_finish, outcomeOf, broadcast, validateMask_of_contiguous h]
  rfl

/-- BCAST on any other mask (R70). -/
theorem exec_bcast_of_not_contiguous {s : State} (h : ¬Contiguous s.m) :
    exec .bcast s = .next { s with st := 4, r0 := 0, r1 := 0, rc := 0 } := by
  rw [exec_eq_finish, outcomeOf, broadcast, validateMask_of_not_contiguous h]
  rfl

/-- Settles O19: the AND datapath on a contiguous mask, the failure on any other. -/
theorem netidMasksTheAddress : Obligations.NetidMasksTheAddress := by
  refine ⟨by decide, fun s => ⟨fun valid => ?_, exec_netid_of_not_contiguous⟩⟩
  exact ⟨networkIdBits s.a s.m, fun i _ => networkIdBits_getLsbD s.a s.m (31 - i), exec_netid_of_contiguous valid⟩

/-- Settles O20: NETID leaves M, so the second run is the AND with the same mask; another state with the same A and M
has the same result. -/
theorem netidProperties : Obligations.NetidProperties := by
  intro s valid
  refine ⟨_, _, exec_netid_of_contiguous valid, exec_netid_of_contiguous valid, rfl, rfl, networkIdBits_idem s.a s.m,
    fun i _ => networkIdBits_of_host, fun i _ => networkIdBits_of_network, fun s' same_a same_m => ?_⟩
  have valid' : Contiguous s'.m := same_m ▸ valid
  refine ⟨_, exec_netid_of_contiguous valid', rfl, ?_, rfl, rfl⟩
  rw [same_a, same_m]

/-- Settles O21: the OR datapath on a contiguous mask, the failure on any other. -/
theorem bcastForcesTheHostBits : Obligations.BcastForcesTheHostBits := by
  refine ⟨by decide, fun s => ⟨fun valid => ?_, exec_bcast_of_not_contiguous⟩⟩
  exact ⟨broadcastBits s.a s.m, fun i _ => broadcastBits_getLsbD s.a s.m (by omega), exec_bcast_of_contiguous valid⟩

/-- Settles O22: the two datapaths position by position, and as words with the inverted mask. -/
theorem bcastProperties : Obligations.BcastProperties := by
  intro s valid
  refine ⟨_, _, _, exec_bcast_of_contiguous valid, exec_bcast_of_contiguous valid, exec_netid_of_contiguous valid,
    rfl, rfl, rfl, fun i _ network => ?_, fun i _ host => ?_, broadcastBits_eq_or_not s.a s.m,
    broadcastBits_eq_networkIdBits_or_not s.a s.m, broadcastBits_idem s.a s.m,
    broadcastBits_eq_networkIdBits_iff s.a s.m⟩
  · have agree := broadcastBits_of_network (a := s.a) (by omega) network
    exact ⟨agree.trans (networkIdBits_getLsbD s.a s.m (31 - i)), agree⟩
  · exact ⟨broadcastBits_of_host (by omega) host, networkIdBits_of_host host⟩

end Sys2Proof.Machine

/-! ### Construction (spec/43_address_construction.md), R74 to R77 -/

namespace Sys2Proof.Machine

/-! The protocol that both constructions share, on the address operand and a mask `m`: M for MKADDR, the derived mask
for MKADDRC (R73). -/

/-- The construction on a contiguous mask without the host flag copies its two operands (R74). -/
theorem construct_without_flag {m : Word} (valid : Contiguous m) (a : Word) :
    construct a m false = .ok { addressBits := a, maskBits := m } := by
  rw [construct, validateMask_of_contiguous valid]
  rfl

/-- With the host flag it does so when the validator passes the address (R74). -/
theorem construct_with_flag {m : Word} (valid : Contiguous m) (a : Word) :
    construct a m true = (validateHost a m).map fun _ => { addressBits := a, maskBits := m } := by
  rw [construct, validateMask_of_contiguous valid]
  cases validateHost a m <;> rfl

/-- The state in which a construction with the mask `m` ends. -/
def afterConstruct (h : Bool) (m : Word) (s : State) : State :=
  finish ((construct s.a m h).map Address.results) s

/-- MKADDR is the construction with M (R74). -/
theorem exec_mkaddr (h : Bool) (s : State) : exec (.mkaddr h) s = .next (afterConstruct h s.m s) :=
  exec_eq_finish (.mkaddr h) s

/-- MKADDRC with C from 1 to 30 is the construction with the leading ones (R76). -/
theorem exec_mkaddrc_of_in_range {s : State} (h : Bool) (low : 1 ≤ s.c.toInt) (high : s.c.toInt ≤ 30) :
    exec (.mkaddrc h) s = .next (afterConstruct h (leadingOnes s.c.toInt) s) := by
  rcases constructFromCidr_cases s.a s.c.toInt h with ⟨out, -⟩ | ⟨-, -, derives⟩
  · omega
  · rw [exec_eq_finish, outcomeOf, sext32, derives, afterConstruct]

/-- MKADDRC with C out of range fails before A or the host flag counts (R76). -/
theorem exec_mkaddrc_of_out_of_range {s : State} (h : Bool) (out : CidrOutOfRange s.c) :
    exec (.mkaddrc h) s = .next { s with st := 5, r0 := 0, r1 := 0, rc := 0 } := by
  rcases constructFromCidr_cases s.a s.c.toInt h with ⟨-, refuses⟩ | ⟨low, high, -⟩
  · rw [exec_eq_finish, outcomeOf, sext32, refuses]
    rfl
  · rw [CidrOutOfRange] at out
    omega

/-! How a construction ends, in the order of its tests (R74). -/

theorem afterConstruct_of_not_contiguous {m : Word} (invalid : ¬Contiguous m) (h : Bool) (s : State) :
    afterConstruct h m s = { s with st := 4, r0 := 0, r1 := 0, rc := 0 } := by
  rw [afterConstruct, construct, validateMask_of_not_contiguous invalid]
  rfl

theorem afterConstruct_without_flag {m : Word} (valid : Contiguous m) (s : State) :
    afterConstruct false m s = { s with st := 1, r0 := s.a, r1 := m, rc := 0 } := by
  rw [afterConstruct, construct_without_flag valid]
  rfl

theorem afterConstruct_of_networkId {m : Word} {s : State} (valid : Contiguous m) (nid : s.a = networkIdBits s.a m) :
    afterConstruct true m s = { s with st := 6, r0 := 0, r1 := 0, rc := 0 } := by
  rw [afterConstruct, construct_with_flag valid, validateHost, if_pos nid]
  rfl

theorem afterConstruct_of_broadcast {m : Word} {s : State} (valid : Contiguous m) (not_nid : s.a ≠ networkIdBits s.a m)
    (bc : s.a = broadcastBits s.a m) : afterConstruct true m s = { s with st := 7, r0 := 0, r1 := 0, rc := 0 } := by
  rw [afterConstruct, construct_with_flag valid, validateHost, if_neg not_nid, if_pos bc]
  rfl

theorem afterConstruct_of_host {m : Word} {s : State} (valid : Contiguous m) (not_nid : s.a ≠ networkIdBits s.a m)
    (not_bc : s.a ≠ broadcastBits s.a m) :
    afterConstruct true m s = { s with st := 1, r0 := s.a, r1 := m, rc := 0 } := by
  rw [afterConstruct, construct_with_flag valid, validateHost, if_neg not_nid, if_neg not_bc]
  rfl

/-- The verdict of a construction with the host flag, by the two comparators (R75). -/
theorem afterConstruct_verdict {m : Word} (valid : Contiguous m) (s : State) :
    ((afterConstruct true m s).st = 6 ↔ s.a = networkIdBits s.a m) ∧
    ((afterConstruct true m s).st = 7 ↔ s.a ≠ networkIdBits s.a m ∧ s.a = broadcastBits s.a m) ∧
    ((afterConstruct true m s).st = 1 ↔ s.a ≠ networkIdBits s.a m ∧ s.a ≠ broadcastBits s.a m) := by
  by_cases nid : s.a = networkIdBits s.a m
  · simp [afterConstruct_of_networkId valid nid, ← nid]
  by_cases bc : s.a = broadcastBits s.a m
  · simp [afterConstruct_of_broadcast valid nid bc, nid, ← bc]
  · simp [afterConstruct_of_host valid nid bc, nid, bc]

/-- A construction succeeds on a contiguous mask only, with the host flag on a host address only, and copies its
operands (R77). -/
theorem afterConstruct_of_success {h : Bool} {m : Word} {s : State} (success : (afterConstruct h m s).st = 1) :
    Contiguous m ∧ afterConstruct h m s = { s with st := 1, r0 := s.a, r1 := m, rc := 0 } ∧
      (h = true → s.a ≠ networkIdBits s.a m ∧ s.a ≠ broadcastBits s.a m) := by
  by_cases valid : Contiguous m
  · cases h with
    | false => exact ⟨valid, afterConstruct_without_flag valid s, nofun⟩
    | true =>
      obtain ⟨-, -, succeeds⟩ := afterConstruct_verdict valid s
      obtain ⟨not_nid, not_bc⟩ := succeeds.mp success
      exact ⟨valid, afterConstruct_of_host valid not_nid not_bc, fun _ => ⟨not_nid, not_bc⟩⟩
  · rw [afterConstruct_of_not_contiguous valid] at success
    cases success

/-! The two comparators, as words and bit by bit (R75). -/

/-- Nothing of `x` stands outside the mask when `x` is 0 at every host position. -/
theorem and_not_eq_zero_iff (x m : Word) :
    x &&& ~~~m = 0 ↔ ∀ n, n < 32 → m.getLsbD n = false → x.getLsbD n = false := by
  rw [BitVec.eq_of_getLsbD_eq_iff]
  refine forall₂_congr fun n hn => ?_
  rw [BitVec.getLsbD_and, BitVec.getLsbD_not]
  cases m.getLsbD n <;> simp [hn]

/-- The network id comparator looks at the host positions only. -/
theorem eq_networkIdBits_iff (a m : Word) : a = networkIdBits a m ↔ a &&& ~~~m = 0 := by
  rw [and_not_eq_zero_iff, BitVec.eq_of_getLsbD_eq_iff]
  refine forall₂_congr fun n hn => ?_
  rw [networkIdBits_getLsbD]
  cases m.getLsbD n <;> simp

/-- So does the broadcast comparator, for ones. -/
theorem eq_broadcastBits_iff (a m : Word) : a = broadcastBits a m ↔ ~~~a &&& ~~~m = 0 := by
  rw [and_not_eq_zero_iff, BitVec.eq_of_getLsbD_eq_iff]
  refine forall₂_congr fun n hn => ?_
  rw [broadcastBits_getLsbD a m hn]
  cases m.getLsbD n <;> simp [hn]

/-- Both comparators hold only where the two results are the same word, which is under the mask without a host
position. -/
theorem eq_networkIdBits_and_broadcastBits_iff (a m : Word) :
    (a = networkIdBits a m ∧ a = broadcastBits a m) ↔ m = BitVec.allOnes 32 := by
  constructor
  · rintro ⟨nid, bc⟩
    exact (broadcastBits_eq_networkIdBits_iff a m).mp (bc.symm.trans nid)
  · intro all
    have nid : a = networkIdBits a m := by rw [networkIdBits, all, BitVec.and_allOnes]
    exact ⟨nid, nid.trans ((broadcastBits_eq_networkIdBits_iff a m).mpr all).symm⟩

/-- What holds of every word bit holds of every position (R11). -/
theorem forall_bit_iff_forall_position (P : Nat → Prop) :
    (∀ n, n < 32 → P n) ↔ ∀ i, i < 32 → P (31 - i) := by
  refine ⟨fun bits i _ => bits (31 - i) (by omega), fun positions n hn => ?_⟩
  have e : 31 - (31 - n) = n := by omega
  exact e ▸ positions (31 - n) (by omega)

theorem eq_networkIdBits_iff_positions (a m : Word) :
    a = networkIdBits a m ↔ ∀ i, i < 32 → m.getLsbD (31 - i) = false → a.getLsbD (31 - i) = false := by
  rw [eq_networkIdBits_iff, and_not_eq_zero_iff]
  exact forall_bit_iff_forall_position _

theorem eq_broadcastBits_iff_positions (a m : Word) :
    a = broadcastBits a m ↔ ∀ i, i < 32 → m.getLsbD (31 - i) = false → a.getLsbD (31 - i) = true := by
  rw [eq_broadcastBits_iff, and_not_eq_zero_iff, forall_bit_iff_forall_position]
  refine forall₂_congr fun i _ => ?_
  have in_word : 31 - i < 32 := by omega
  simp [in_word]

/-! The derived mask of MKADDRC. -/

/-- The mask C2M and MKADDRC derive from C is /C (R64). -/
theorem leadingOnes_toInt_eq_prefixMask {c : Word} (high : c.toNat ≤ 30) :
    leadingOnes c.toInt = prefixMask c.toNat := by
  rw [toInt_eq_toNat_of_le_thirty high, leadingOnes_eq_prefixMask]

/-- It has a host position, the last one (R76). -/
theorem leadingOnes_ne_allOnes {c : Int} (high : c ≤ 30) : leadingOnes c ≠ BitVec.allOnes 32 := by
  intro all
  have last : fieldBit (leadingOnes c) 31 = true := by rw [all]; rfl
  rw [leadingOnes_fieldBit c 31 (by decide), decide_eq_true_eq] at last
  omega

/-- Settles O23: the words by evaluation, the construction with M by the outcome of its tests. -/
theorem mkaddrConstructsFromMask : Obligations.MkaddrConstructsFromMask := by
  refine ⟨by decide, by decide, fun s => ?_⟩
  simp only [exec_mkaddr]
  refine ⟨fun h invalid => ?_, fun valid => ?_, fun valid nid => ?_, fun valid not_nid bc => ?_,
    fun valid not_nid not_bc => ?_⟩
  · rw [afterConstruct_of_not_contiguous invalid]
  · rw [afterConstruct_without_flag valid]
  · rw [afterConstruct_of_networkId valid nid]
  · rw [afterConstruct_of_broadcast valid not_nid bc]
  · rw [afterConstruct_of_host valid not_nid not_bc]

/-- Settles O24: the verdict is given by the comparators, and each of them is a test of the host positions. The
broadcast is reported when the network id comparator does not hold too, which only the mask of ones brings about. -/
theorem hostValidatorLooksAtHostPositions : Obligations.HostValidatorLooksAtHostPositions := by
  intro s valid
  obtain ⟨reports_nid, reports_bc, succeeds⟩ := afterConstruct_verdict valid s
  have both : (s.a = networkIdBits s.a s.m ∧ s.a = broadcastBits s.a s.m) ↔ s.m = 0xFFFFFFFF :=
    eq_networkIdBits_and_broadcastBits_iff s.a s.m
  refine ⟨_, exec_mkaddr true s, reports_nid.trans (eq_networkIdBits_iff_positions s.a s.m), ?_,
    succeeds.trans (and_congr (eq_networkIdBits_iff s.a s.m).not (eq_broadcastBits_iff s.a s.m).not), both⟩
  rw [reports_bc, ← eq_broadcastBits_iff_positions, ne_eq, ne_eq, ← both]
  tauto

/-- Settles O25: the range test, then the construction with the derived mask, where the two comparators exclude each
other. -/
theorem mkaddrcConstructsFromPrefixLength : Obligations.MkaddrcConstructsFromPrefixLength := by
  refine ⟨by decide, by decide, fun s h => exec_mkaddrc_of_out_of_range h, fun s low high => ?_⟩
  have valid := leadingOnes_contiguous s.c.toInt
  simp only [exec_mkaddrc_of_in_range _ low high]
  refine ⟨leadingOnes s.c.toInt, fun i hi => ?_, ?_, fun nid => ?_, fun bc => ?_, fun not_nid not_bc => ?_⟩
  · rw [← fieldBit_eq_getLsbD _ i hi, leadingOnes_fieldBit _ i hi]
  · rw [afterConstruct_without_flag valid]
  · rw [afterConstruct_of_networkId valid nid]
  · have not_nid : s.a ≠ networkIdBits s.a (leadingOnes s.c.toInt) := fun nid =>
      leadingOnes_ne_allOnes high ((eq_networkIdBits_and_broadcastBits_iff s.a _).mp ⟨nid, bc⟩)
    rw [afterConstruct_of_broadcast valid not_nid bc]
  · rw [afterConstruct_of_host valid not_nid not_bc]

/-- Settles O26: what a successful construction says of its mask, with M and with the derived mask; without the host
flag it succeeds on every valid mask. -/
theorem constructedAddressInvariants : Obligations.ConstructedAddressInvariants := by
  refine ⟨fun s h => ?_, fun s h => ?_, fun s p _ hm => ?_, fun s p low high hc => ?_⟩
  · refine ⟨_, exec_mkaddr h s, fun success => ?_⟩
    obtain ⟨valid, ends, host⟩ := afterConstruct_of_success success
    rw [ends]
    exact ⟨valid, rfl, rfl, host⟩
  · by_cases out : CidrOutOfRange s.c
    · exact ⟨_, exec_mkaddrc_of_out_of_range h out, nofun⟩
    · have accepted : 1 ≤ s.c.toInt ∧ s.c.toInt ≤ 30 := by rw [CidrOutOfRange] at out; omega
      obtain ⟨low, high⟩ := accepted
      obtain ⟨one_le, le_thirty⟩ := toNat_in_range low high
      refine ⟨_, exec_mkaddrc_of_in_range h low high, fun success => ?_⟩
      obtain ⟨valid, ends, host⟩ := afterConstruct_of_success success
      rw [ends]
      exact ⟨valid, rfl, ⟨s.c.toNat, one_le, le_thirty, leadingOnes_toInt_eq_prefixMask le_thirty⟩, host⟩
  · have valid : Contiguous s.m := hm ▸ prefixMask_contiguous p
    refine ⟨_, exec_mkaddr false s, ?_⟩
    rw [afterConstruct_without_flag valid]
    exact ⟨rfl, hm⟩
  · have number : s.c.toNat = p := by rw [hc, BitVec.toNat_ofNat]; omega
    have signed := toInt_eq_toNat_of_le_thirty (c := s.c) (by omega)
    refine ⟨_, exec_mkaddrc_of_in_range false (by omega) (by omega), ?_⟩
    rw [afterConstruct_without_flag (leadingOnes_contiguous _)]
    exact ⟨rfl, number ▸ leadingOnes_toInt_eq_prefixMask (by omega)⟩

end Sys2Proof.Machine

/-! ### Failures (spec/60_exceptions.md), R83 and R88 -/

namespace Sys2Proof

/-- The decoder accepts exactly the words that pass the three tests of R46. -/
theorem decode_isOk_eq_commandWordLegal (w : Word) : (decode w).isOk = commandWordLegal w := by
  by_cases large : 32 ≤ w.toNat
  · have not_clear : reservedBitsClear w = false := decide_eq_false (not_lt.mpr large)
    rw [decode_of_large w large, commandWordLegal, not_clear]
    rfl
  · have below : ∀ n, n < 32 → (decode (BitVec.ofNat 32 n)).isOk = commandWordLegal (BitVec.ofNat 32 n) := by decide
    simpa using below w.toNat (not_le.mp large)

end Sys2Proof

namespace Sys2Proof.Machine

/-! The code a result or failure leaves in ST (R80, R83), for the commands and for the operations they are made of. -/

/-- The code of an outcome: 1 for a result of any kind, the failure's own otherwise. -/
def outcomeCode {α : Type} : Except Failure α → StatusCode
  | .error f => f.status.code
  | .ok _ => Status.stOk.code

@[simp] theorem outcomeCode_error {α : Type} (f : Failure) :
    outcomeCode (.error f : Except Failure α) = f.status.code := rfl

@[simp] theorem outcomeCode_ok {α : Type} (r : α) : outcomeCode (.ok r) = 1 := rfl

/-- Where a result is placed does not matter for the code. -/
@[simp] theorem outcomeCode_map {α β : Type} (g : α → β) (o : Except Failure α) :
    outcomeCode (o.map g) = outcomeCode o := by
  cases o <;> rfl

@[simp] theorem finish_st (o : Except Failure Results) (s : State) : (finish o s).st = outcomeCode o := by
  cases o <;> rfl

/-- No failure has the code of success (R80). -/
theorem Failure.code_ne_one (f : Failure) : f.status.code ≠ 1 := by
  cases f <;> decide

theorem validateMask_code (m : Word) : outcomeCode (validateMask m) ∈ ([1, 4] : List StatusCode) := by
  rcases validateMask_cases m with ⟨-, e⟩ | ⟨-, e⟩ <;> rw [e] <;> decide

theorem maskFromCidr_code (c : Int) : outcomeCode (maskFromCidr c) ∈ ([1, 5] : List StatusCode) := by
  rcases maskFromCidr_cases c with ⟨-, refuses⟩ | ⟨-, -, builds⟩
  · rw [refuses, outcomeCode_error]
    decide
  · rw [builds, outcomeCode_ok]
    decide

theorem validateHost_code (a m : Word) : outcomeCode (validateHost a m) ∈ ([1, 6, 7] : List StatusCode) := by
  rcases validateHost_cases a m with ⟨-, e⟩ | ⟨-, -, e⟩ | ⟨-, -, e⟩ <;> rw [e] <;> decide

/-- The codes the host test of a construction leaves open, with and without the host flag (R74). -/
def hostTestCodes : Bool → List StatusCode
  | false => [1]
  | true => [1, 6, 7]

theorem hostTestCodes_subset (h : Bool) :
    hostTestCodes h ⊆ possibleCodes (.mkaddr h) ∧ hostTestCodes h ⊆ possibleCodes (.mkaddrc h) := by
  cases h <;> decide

/-- On a contiguous mask a construction can fail by the validator only, and without the host flag not at all (R74). -/
theorem construct_code_of_contiguous {m : Word} (valid : Contiguous m) (a : Word) (h : Bool) :
    outcomeCode (construct a m h) ∈ hostTestCodes h := by
  cases h with
  | false => simp [construct_without_flag valid, hostTestCodes]
  | true =>
    rw [construct_with_flag valid, outcomeCode_map]
    exact validateHost_code a m

theorem construct_code (a m : Word) (h : Bool) : outcomeCode (construct a m h) ∈ possibleCodes (.mkaddr h) := by
  by_cases valid : Contiguous m
  · exact (hostTestCodes_subset h).1 (construct_code_of_contiguous valid a h)
  · rw [construct, validateMask_of_not_contiguous valid, outcomeCode_error]
    cases h <;> decide

/-- The derived mask is contiguous, so that the range test and the validator alone can fail (R76). -/
theorem constructFromCidr_code (a : Word) (c : Int) (h : Bool) :
    outcomeCode (constructFromCidr a c h) ∈ possibleCodes (.mkaddrc h) := by
  rcases constructFromCidr_cases a c h with ⟨-, refuses⟩ | ⟨-, -, derives⟩
  · rw [refuses, outcomeCode_error]
    cases h <;> decide
  · rw [derives]
    exact (hostTestCodes_subset h).2 (construct_code_of_contiguous (leadingOnes_contiguous c) a h)

/-- A command ends with a code of its row of the matrix (R88). -/
theorem outcomeOf_code (i : Instr) (a m c : Word) : outcomeCode (outcomeOf i a m c) ∈ possibleCodes i := by
  cases i with
  | vmask | m2c | netid | bcast =>
    simp only [outcomeOf, cidrFromMask, networkId, broadcast, outcomeCode_map]
    exact validateMask_code m
  | c2m =>
    rw [outcomeOf, outcomeCode_map]
    exact maskFromCidr_code (sext32 c)
  | mkaddr h =>
    rw [outcomeOf, outcomeCode_map]
    exact construct_code a m h
  | mkaddrc h =>
    rw [outcomeOf, outcomeCode_map]
    exact constructFromCidr_code a (sext32 c) h

/-- No command has code 8 in its row (R88). -/
theorem eight_not_mem_possibleCodes (i : Instr) : (8 : StatusCode) ∉ possibleCodes i := by
  cases i with
  | vmask | c2m | m2c | netid | bcast => decide
  | mkaddr h | mkaddrc h => cases h <;> decide

/-- A word that is not legal has code 8, and no other word has (R82, R88). -/
theorem wordOutcome_code_eq_eight_iff (w a m c : Word) :
    outcomeCode (wordOutcome w a m c) = 8 ↔ commandWordLegal w = false := by
  rw [← decode_isOk_eq_commandWordLegal, wordOutcome]
  cases decode w with
  | error e => exact ⟨fun _ => rfl, fun _ => rfl⟩
  | ok i =>
    refine ⟨fun eight => ?_, nofun⟩
    have code := outcomeOf_code i a m c
    rw [eight] at code
    exact absurd code (eight_not_mem_possibleCodes i)

/-- For each code a state in which every command that has the code in its row ends with it: 192.168.1.10 under /24
succeeds everywhere, and each failure takes one operand from it. -/
def stateForCode (k : StatusCode) : State :=
  match k.toNat with
  | 4 => { State.reset with a := 0xC0A8010A, m := 0x000000FF, c := 24 }
  | 5 => { State.reset with a := 0xC0A8010A, m := 0xFFFFFF00, c := 31 }
  | 6 => { State.reset with a := 0xC0A80100, m := 0xFFFFFF00, c := 24 }
  | 7 => { State.reset with a := 0xC0A801FF, m := 0xFFFFFF00, c := 24 }
  | _ => { State.reset with a := 0xC0A8010A, m := 0xFFFFFF00, c := 24 }

/-- Every code of a command's row occurs (R88). -/
theorem outcomeOf_stateForCode (i : Instr) : ∀ k ∈ possibleCodes i,
    outcomeCode (outcomeOf i (stateForCode k).a (stateForCode k).m (stateForCode k).c) = k := by
  cases i with
  | vmask | c2m | m2c | netid | bcast => decide
  | mkaddr h | mkaddrc h => cases h <;> decide

/-- Settles O28: a command word ends in one of two ways, and no failure writes the code of success. -/
theorem commandEndsByFailureOrSuccess : Obligations.CommandEndsByFailureOrSuccess := by
  intro s w rest h
  refine ⟨_, step_of_pending_command s w rest h, ?_⟩
  rcases finish_cases (wordOutcome w s.a s.m s.c) { s with pending := rest } with ⟨f, -, fails⟩ | ⟨r, -, succeeds⟩
  · rw [fails]
    exact ⟨fun _ => rfl, fun success => absurd success f.code_ne_one⟩
  · rw [succeeds]
    exact ⟨fun failure => absurd rfl failure, fun _ => rfl⟩

/-- Settles O30: a command ends with the code of its outcome, which is in its row, and each code of the row has a state;
code 8 is in no row. -/
theorem failureMatrix : Obligations.FailureMatrix := by
  refine ⟨fun i k => ⟨?_, fun possible => ?_⟩, fun s w rest h => ?_⟩
  · rintro ⟨s, t, runs, rfl⟩
    rw [exec_eq_finish] at runs
    cases runs
    rw [finish_st]
    exact outcomeOf_code i s.a s.m s.c
  · refine ⟨stateForCode k, _, exec_eq_finish i _, ?_⟩
    rw [finish_st]
    exact outcomeOf_stateForCode i k possible
  · refine ⟨_, step_of_pending_command s w rest h, ?_⟩
    rw [finish_st]
    exact wordOutcome_code_eq_eight_iff w s.a s.m s.c

end Sys2Proof.Machine

/-! ### Reset and hazards (spec/70_reset_and_hazards.md), R100 and R105 -/

namespace Sys2Proof.Machine

/-- A step with `Reset` pending writes every stored register (R100). -/
theorem step_of_pending_reset (s : State) (rest : List HostAction) (h : s.pending = .reset :: rest) :
    step s = .next (resetRegisters { s with pending := rest }) :=
  step_of_pending s .reset rest h

/-- Settles O41: the state after `Reset` holds the reset value in each of the seven registers. -/
theorem resetWritesEveryRegister : Obligations.ResetWritesEveryRegister := by
  intro s rest h
  exact ⟨_, step_of_pending_reset s rest h, resetRegisters_a _, resetRegisters_m _, resetRegisters_c _,
    resetRegisters_st _, resetRegisters_r0 _, resetRegisters_r1 _, resetRegisters_rc _⟩

/-! What stands between two commands: host actions that leave ST and the result registers (R105). -/

theorem SameOutcome.trans {s t u : State} (h : SameOutcome s t) (k : SameOutcome t u) : SameOutcome s u := by
  obtain ⟨hst, hr0, hr1, hrc⟩ := h
  obtain ⟨kst, kr0, kr1, krc⟩ := k
  exact ⟨hst.trans kst, hr0.trans kr0, hr1.trans kr1, hrc.trans krc⟩

/-- A host write to any register but CMD leaves ST and the result registers (R32). -/
theorem afterWrite_sameOutcome {idx : RegIndex} (h : idx ≠ 3) (v : Word) (s : State) :
    SameOutcome (afterWrite idx v s) s := by
  rw [afterWrite_of_ne h]
  exact storeReg_sameOutcome _ v s

/-- One such action is taken off the host's list and leaves what the last command left. -/
theorem step_of_leavesOutcome {s : State} {act : HostAction} {rest : List HostAction} (h : s.pending = act :: rest)
    (leaves : leavesOutcome act = true) : ∃ t, step s = .next t ∧ t.pending = rest ∧ SameOutcome t s := by
  cases act with
  | reset => exact absurd leaves Bool.false_ne_true
  | write idx v =>
    have not_cmd : idx ≠ 3 := bne_iff_ne.mp leaves
    exact ⟨_, step_of_pending_write s idx v rest h, afterWrite_pending idx v _, afterWrite_sameOutcome not_cmd v _⟩
  | read idx => exact ⟨_, step_of_pending_read s idx rest h, rfl, rfl, rfl, rfl, rfl⟩

/-- A run of such actions leaves what the last command left (R105). -/
theorem run_of_leavesOutcome {post : List HostAction} (leaves : ∀ act ∈ post, leavesOutcome act = true) (s : State)
    (h : s.pending = post) : ∃ u, run post.length s = .next u ∧ SameOutcome u s := by
  induction post generalizing s with
  | nil => exact ⟨s, run_zero s, rfl, rfl, rfl, rfl⟩
  | cons act rest ih =>
    obtain ⟨leaves_act, leaves_rest⟩ := List.forall_mem_cons.mp leaves
    obtain ⟨t, steps, pending_t, same_t⟩ := step_of_leavesOutcome h leaves_act
    obtain ⟨u, runs, same_u⟩ := ih leaves_rest t pending_t
    exact ⟨u, (run_of_step s t _ steps).trans runs, same_u.trans same_t⟩

/-- Settles O38: the command ends by its outcome, computed from A, M and C as they stand at its write, and the actions
after it leave that outcome, by induction on them. -/
theorem resultsStayUntilTheNextCommand : Obligations.ResultsStayUntilTheNextCommand := by
  intro s w post leaves
  have ends := step_of_pending_command { s with pending := .write 3 w :: post } w post rfl
  obtain ⟨u, runs, same⟩ := run_of_leavesOutcome leaves _
    (finish_pending (wordOutcome w s.a s.m s.c) { s with pending := post })
  refine ⟨_, u, run_one_of_step ends, ?_, same, fun i hi => ?_⟩
  · rw [Nat.add_comm]
    exact (run_of_step _ _ _ ends).trans runs
  · rw [exec_eq_finish, wordOutcome, hi]

end Sys2Proof.Machine

/-! ### Decoding and encoding (spec/30_encoding.md), R45 to R47 and R51 -/

namespace Sys2Proof

open Machine

/-! The fields of a word as slices of its number, and the word they make up (R45). -/

theorem opcField_toNat (w : Word) : (opcField w).toNat = w.toNat % 16 := by
  simp only [opcField, BitVec.extractLsb'_toNat, Nat.shiftRight_zero, Nat.reducePow]

theorem hostFlagField_toNat (w : Word) : (hostFlagField w).toNat = w.toNat / 16 % 2 := by
  exact Nat.toNat_testBit w.toNat 4

/-- A word is its three fields, `RSV`, `H`, `OPC` from the top (R45). -/
theorem word_eq_append_fields (w : Word) :
    w = (reservedField w ++ (BitVec.ofBool (hostFlagField w) ++ opcField w) : BitVec (27 + (1 + 4))) := by
  refine BitVec.eq_of_toNat_eq ?_
  rw [append_toNat_eq_mul_add, append_toNat_eq_mul_add, BitVec.toNat_ofBool, reservedField_toNat, hostFlagField_toNat,
    opcField_toNat]
  omega

/-- The decoder reads back each command from its word (R46, R47). -/
@[simp] theorem decode_encode (i : Instr) : decode (encode i) = .ok i := by
  cases i with
  | vmask | c2m | m2c | netid | bcast => decide
  | mkaddr h | mkaddrc h => cases h <;> decide

/-- A word that selects a command is the command's word: its three fields are the command's (R45, R46). -/
theorem eq_encode_of_decode_eq_ok {w : Word} {i : Instr} (h : decode w = .ok i) : w = encode i := by
  obtain ⟨reserved, opc, flag⟩ := fields_of_decode_eq_ok h
  calc w = (reservedField w ++ (BitVec.ofBool (hostFlagField w) ++ opcField w) : BitVec (27 + (1 + 4))) :=
        word_eq_append_fields w
    _ = encode i := by rw [reserved, BitVec.eq_of_toNat_eq opc, flag]; rfl

theorem decode_eq_ok_iff (w : Word) (i : Instr) : decode w = .ok i ↔ w = encode i := by
  refine ⟨eq_encode_of_decode_eq_ok, ?_⟩
  rintro rfl
  exact decode_encode i

/-- Settles O3: the fields of an accepted word are those of its command and make up the word, and the nine words decode
to their commands. -/
theorem decodeInvertsEncode : Obligations.DecodeInvertsEncode :=
  fun w i _ => decode_eq_ok_iff w i

/-! The nine legal words (R46). -/

/-- The nine commands, in the order in which R46 lists their words. -/
def commands : List Instr :=
  [.vmask, .c2m, .m2c, .netid, .bcast, .mkaddr false, .mkaddr true, .mkaddrc false, .mkaddrc true]

theorem mem_commands (i : Instr) : i ∈ commands := by
  cases i with
  | vmask | c2m | m2c | netid | bcast => decide
  | mkaddr h | mkaddrc h => cases h <;> decide

theorem commands_map_encode : commands.map encode = [0x1, 0x2, 0x3, 0x4, 0x5, 0x6, 0x16, 0x7, 0x17] := by decide

/-- The legal words are those of the nine commands (R46). -/
theorem exists_decode_iff_mem_words (w : Word) : (∃ i, decode w = .ok i) ↔ w ∈ commands.map encode := by
  simp only [decode_eq_ok_iff, List.mem_map, mem_commands, true_and, eq_comm (a := w)]

/-- The legal words are those the separate check passes (R46). -/
theorem exists_decode_iff_commandWordLegal (w : Word) : (∃ i, decode w = .ok i) ↔ commandWordLegal w = true := by
  rw [← decode_isOk_eq_commandWordLegal]
  cases decode w with
  | error e => exact ⟨nofun, nofun⟩
  | ok i => exact ⟨fun _ => rfl, fun _ => ⟨i, rfl⟩⟩

/-- The separate check passes the words that none of the three tests of R46 refuses. -/
theorem commandWordLegal_iff (w : Word) :
    commandWordLegal w = true ↔
      ¬(w.toNat / 32 ≠ 0 ∨ w.toNat % 16 = 0 ∨ 8 ≤ w.toNat % 16 ∨
        (w.toNat / 16 % 2 = 1 ∧ 1 ≤ w.toNat % 16 ∧ w.toNat % 16 ≤ 5)) := by
  simp only [commandWordLegal, reservedBitsClear, opcodeAssigned, hostFlagAllowed, Bool.and_eq_true, Bool.or_eq_true,
    decide_eq_true_eq]
  omega

/-- Settles O2: a word decodes when it is a command's word, and by the separate check, which is the three tests. -/
theorem nineLegalCommandWords : Obligations.NineLegalCommandWords := by
  intro w
  have legal := exists_decode_iff_commandWordLegal w
  exact ⟨commands_map_encode ▸ exists_decode_iff_mem_words w, legal.trans (commandWordLegal_iff w), legal⟩

/-! The rows of the opcode table (R47). -/

/-- A row whose mask is all ones selects its match alone. -/
theorem full_mask_row_iff (w : Word) (i : Instr) : w &&& 0xFFFFFFFF = encode i ↔ decode w = .ok i := by
  have full : w &&& 0xFFFFFFFF = w := BitVec.and_allOnes
  rw [full, decode_eq_ok_iff]

/-- Bit 4 and the other bits make up a word. -/
theorem eq_masked_or_flag (w : Word) : w = (w &&& 0xFFFFFFEF) ||| (if w.getLsbD 4 then 0x10 else 0) := by
  have flag : w &&& 0x10 = if w.getLsbD 4 then 0x10 else 0 := BitVec.and_twoPow w 4
  have all : (0xFFFFFFEF : Word) ||| 0x10 = BitVec.allOnes 32 := rfl
  rw [← flag, ← BitVec.and_or_distrib_left, all, BitVec.and_allOnes]

/-- A row whose mask leaves bit 4 out selects a command with either host flag, and the flag is bit 4. -/
theorem flag_row_iff (w : Word) (i : Bool → Instr)
    (joins : ∀ h, encode (i false) ||| (if h then 0x10 else 0) = encode (i h))
    (masks : ∀ h, encode (i h) &&& 0xFFFFFFEF = encode (i false)) :
    w &&& 0xFFFFFFEF = encode (i false) ↔ decode w = .ok (i (w.getLsbD 4)) := by
  rw [decode_eq_ok_iff]
  constructor
  · intro row
    calc w = (w &&& 0xFFFFFFEF) ||| (if w.getLsbD 4 then 0x10 else 0) := eq_masked_or_flag w
      _ = encode (i (w.getLsbD 4)) := by rw [row, joins]
  · intro word
    calc w &&& 0xFFFFFFEF = encode (i (w.getLsbD 4)) &&& 0xFFFFFFEF := congrArg (· &&& 0xFFFFFFEF) word
      _ = encode (i false) := masks _

/-- Settles O4: each row's match is its command's word, and a word is its command's word. -/
theorem tableRowsSelectTheirCommands : Obligations.TableRowsSelectTheirCommands := fun w =>
  ⟨full_mask_row_iff w .vmask, full_mask_row_iff w .c2m, full_mask_row_iff w .m2c, full_mask_row_iff w .netid,
    full_mask_row_iff w .bcast, flag_row_iff w .mkaddr (by decide) (by decide),
    flag_row_iff w .mkaddrc (by decide) (by decide)⟩

/-! The decoder on a row of the table. -/

theorem decodeTableWord_eq_some_iff (nbits w : Nat) (i : Instr) :
    decodeTableWord nbits w = some i ↔ decode (tableWord nbits w) = .ok i := by
  rw [decodeTableWord]
  cases decode (tableWord nbits w) <;> simp

/-- Settles O1: the seven words are evaluated. -/
theorem sampleWordsDecode : Obligations.SampleWordsDecode := by
  unfold Obligations.SampleWordsDecode
  decide

/-- Settles O6: each form writes the word of its command to CMD, and the nine words are evaluated. -/
theorem commandNotationWritesListedWords : Obligations.CommandNotationWritesListedWords := by
  unfold Obligations.CommandNotationWritesListedWords
  decide

end Sys2Proof

/-! ### One step of the block (spec/20_memory.md, spec/70_reset_and_hazards.md), R31, R36 and R109 -/

namespace Sys2Proof.Machine

/-- With no action pending nothing changes (assumption 2). -/
theorem step_of_idle {s : State} (h : s.pending = []) : step s = .next s := by
  simp only [step, performNext, h]

/-- Everything a step can do: nothing, `Reset`, a host write, or a host read (R31). -/
theorem step_cases (s : State) :
    (s.pending = [] ∧ step s = .next s) ∨
    (∃ rest, s.pending = .reset :: rest ∧ step s = .next (resetRegisters { s with pending := rest })) ∨
    (∃ idx v rest, s.pending = .write idx v :: rest ∧ step s = .next (afterWrite idx v { s with pending := rest })) ∨
    (∃ idx rest, s.pending = .read idx :: rest ∧
      step s = .next { s with pending := rest, observed := s.observed ++ [hostRead idx s] }) := by
  cases h : s.pending with
  | nil => exact .inl ⟨rfl, step_of_idle h⟩
  | cons act rest =>
    cases act with
    | reset => exact .inr (.inl ⟨rest, rfl, step_of_pending_reset s rest h⟩)
    | write idx v => exact .inr (.inr (.inl ⟨idx, v, rest, rfl, step_of_pending_write s idx v rest h⟩))
    | read idx => exact .inr (.inr (.inr ⟨idx, rest, rfl, step_of_pending_read s idx rest h⟩))

/-- A step always answers a next state (R109). -/
theorem exists_step (s : State) : ∃ t, step s = .next t := by
  rcases step_cases s with ⟨-, e⟩ | ⟨_, -, e⟩ | ⟨_, _, _, -, e⟩ | ⟨_, _, -, e⟩ <;> exact ⟨_, e⟩

/-- Settles O46: the idle step. -/
theorem idleBlockDoesNothing : Obligations.IdleBlockDoesNothing := fun _ => step_of_idle

/-- Settles O42: `Reset` writes the registers, and the two lists are the host's. -/
theorem resetLeavesTheHostSide : Obligations.ResetLeavesTheHostSide := step_of_pending_reset

/-! A command word handed over runs its command. -/

/-- A step that writes a legal word to CMD runs the word's command (R46). -/
theorem step_of_pending_decoded (s : State) (w : Word) (rest : List HostAction) {i : Instr}
    (h : s.pending = .write 3 w :: rest) (decoded : decode w = .ok i) : step s = exec i { s with pending := rest } := by
  rw [step_of_pending_command s w rest h, exec_eq_finish, wordOutcome, decoded]

/-- Settles O44: the command ends by the outcome of its word. -/
theorem stepRunsTheDecodedCommand : Obligations.StepRunsTheDecodedCommand :=
  fun s w rest _ h decoded _ => step_of_pending_decoded s w rest h decoded

/-- Settles O45: the placed word is a pending write to CMD, and without it the state is the one before. -/
theorem placedWordRunsNext : Obligations.PlacedWordRunsNext := by
  intro s w i placed
  have decoded := (decodeTableWord_eq_some_iff 32 w i).mp placed
  exact step_of_pending_decoded (s.withFetchWord 32 w) _ s.pending (withFetchWord_pending s 32 w) decoded

/-! What a step leaves in an operand register. -/

/-- The three operand registers (R19 to R21). -/
abbrev IsOperand (r : Reg) : Prop := r = .a ∨ r = .m ∨ r = .c

/-- A store reaches the operand register it names and no other (R32). -/
theorem readReg_storeReg {r : Reg} (operand : IsOperand r) (r' : Reg) (v : Word) (s : State) :
    readReg r (storeReg r' v s) = if r' = r then v else readReg r s := by
  rcases operand with rfl | rfl | rfl <;> cases r' <;> rfl

/-- A command writes no operand register (R28). -/
theorem readReg_finish {r : Reg} (operand : IsOperand r) (o : Except Failure Results) (s : State) :
    readReg r (finish o s) = readReg r s := by
  rcases operand with rfl | rfl | rfl
  · exact finish_a o s
  · exact finish_m o s
  · exact finish_c o s

/-- A host write reaches the operand register of its index and no other (R32). -/
theorem readReg_afterWrite {r : Reg} (operand : IsOperand r) (idx : RegIndex) (v : Word) (s : State) :
    readReg r (afterWrite idx v s) = if idx = indexOfReg r then v else readReg r s := by
  by_cases hidx : idx = 3
  · have not_cmd : (3 : RegIndex) ≠ indexOfReg r := by rcases operand with rfl | rfl | rfl <;> decide
    rw [hidx, afterWrite_cmd, readReg_finish operand, if_neg not_cmd]
  · have same_register : regOfIndex idx = r ↔ idx = indexOfReg r := by
      refine ⟨fun e => ?_, fun e => ?_⟩
      · rw [← e, indexOfReg_regOfIndex]
      · rw [e, regOfIndex_indexOfReg]
    rw [afterWrite_of_ne hidx, readReg_storeReg operand]
    simp only [same_register]

/-- The host's side of the state is no register (R36). -/
theorem readReg_hostSide (r : Reg) (s : State) (p : List HostAction) (o : List Word) :
    readReg r { s with pending := p, observed := o } = readReg r s := by
  cases r <;> rfl

/-- An operand register that a step changes was reset or written by the host (R19 to R21). -/
theorem pending_of_operand_changed {r : Reg} (operand : IsOperand r) {s t : State} (h : step s = .next t)
    (changed : readReg r t ≠ readReg r s) :
    ∃ rest, s.pending = .reset :: rest ∨ s.pending = .write (indexOfReg r) (readReg r t) :: rest := by
  rcases step_cases s with ⟨-, e⟩ | ⟨rest, pending, -⟩ | ⟨idx, v, rest, pending, e⟩ | ⟨idx, rest, -, e⟩
  · rw [e] at h
    cases h
    exact absurd rfl changed
  · exact ⟨rest, .inl pending⟩
  · rw [e] at h
    cases h
    have reaches := readReg_afterWrite operand idx v { s with pending := rest }
    by_cases hidx : idx = indexOfReg r
    · rw [if_pos hidx] at reaches
      rw [reaches, ← hidx]
      exact ⟨rest, .inr pending⟩
    · rw [if_neg hidx, readReg_hostSide r s rest s.observed] at reaches
      exact absurd reaches changed
  · rw [e] at h
    cases h
    exact absurd (readReg_hostSide r s _ _) changed

/-- Settles O36: the three operand registers alike, by what a step can do. -/
theorem operandsAreWrittenByTheHostOnly : Obligations.OperandsAreWrittenByTheHostOnly := by
  intro s
  obtain ⟨t, h⟩ := exists_step s
  exact ⟨t, h, pending_of_operand_changed (r := .a) (by decide) h, pending_of_operand_changed (r := .m) (by decide) h,
    pending_of_operand_changed (r := .c) (by decide) h⟩

/-- A host action that neither resets the block nor writes an operand register leaves what stands there (R36). -/
theorem step_of_leavesOperand {r : Reg} (operand : IsOperand r) {s : State} {act : HostAction} {rest : List HostAction}
    (h : s.pending = act :: rest) (leaves : leavesOperand (indexOfReg r) act = true) :
    ∃ t, step s = .next t ∧ t.pending = rest ∧ readReg r t = readReg r s := by
  cases act with
  | reset => exact absurd leaves Bool.false_ne_true
  | write idx v =>
    have other : idx ≠ indexOfReg r := bne_iff_ne.mp leaves
    refine ⟨_, step_of_pending_write s idx v rest h, afterWrite_pending idx v _, ?_⟩
    rw [readReg_afterWrite operand, if_neg other]
    exact readReg_hostSide r s rest s.observed
  | read idx => exact ⟨_, step_of_pending_read s idx rest h, rfl, readReg_hostSide r s _ _⟩

/-- After such actions a read returns what stood in the register before them (R36). -/
theorem run_then_read {r : Reg} (operand : IsOperand r) {post : List HostAction}
    (leaves : ∀ act ∈ post, leavesOperand (indexOfReg r) act = true) (s : State)
    (h : s.pending = post ++ [.read (indexOfReg r)]) :
    ∃ t, run (post.length + 1) s = .next t ∧ t.observed.getLast? = some (readReg r s) := by
  induction post generalizing s with
  | nil =>
    refine ⟨_, run_one_of_step (step_of_pending_read s _ [] h), ?_⟩
    rw [List.getLast?_concat, hostRead, regOfIndex_indexOfReg]
  | cons act rest ih =>
    obtain ⟨leaves_act, leaves_rest⟩ := List.forall_mem_cons.mp leaves
    obtain ⟨t, steps, pending_t, same_t⟩ := step_of_leavesOperand operand h leaves_act
    obtain ⟨u, runs, last_u⟩ := ih leaves_rest t pending_t
    exact ⟨u, (run_of_step s t _ steps).trans runs, same_t ▸ last_u⟩

/-- The same after a host write of the register: the read returns the value written (R36). -/
theorem run_write_then_read {r : Reg} (operand : IsOperand r) (s : State) (v : Word) {post : List HostAction}
    (leaves : ∀ act ∈ post, leavesOperand (indexOfReg r) act = true) :
    ∃ t, run (post.length + 2) { s with pending := .write (indexOfReg r) v :: (post ++ [.read (indexOfReg r)]) } =
        .next t ∧ t.observed.getLast? = some v := by
  have writes := step_of_pending_write
    { s with pending := .write (indexOfReg r) v :: (post ++ [.read (indexOfReg r)]) } _ v _ rfl
  obtain ⟨t, runs, last⟩ := run_then_read operand leaves _
    (afterWrite_pending (indexOfReg r) v { s with pending := post ++ [.read (indexOfReg r)] })
  rw [readReg_afterWrite operand, if_pos rfl] at last
  exact ⟨t, (run_of_step _ _ _ writes).trans runs, last⟩

/-- Settles O39: the write reaches the register, the actions after it leave it, and the read returns it, for the three
operand registers alike. -/
theorem readReturnsTheLatestOperandWrite : Obligations.ReadReturnsTheLatestOperandWrite := by
  rintro s idx v post (rfl | rfl | rfl) leaves
  · exact run_write_then_read (r := .a) (by decide) s v leaves
  · exact run_write_then_read (r := .m) (by decide) s v leaves
  · exact run_write_then_read (r := .c) (by decide) s v leaves

/-! What a step leaves in ST and the result registers. -/

/-- The actions that can change ST or a result register are `Reset` and a write to CMD (R28, R32, R33). -/
theorem leavesOutcome_eq_false_iff (act : HostAction) :
    leavesOutcome act = false ↔ act = .reset ∨ ∃ w, act = .write 3 w := by
  cases act with
  | reset => simp [leavesOutcome]
  | write idx v => simp [leavesOutcome]
  | read idx => simp [leavesOutcome]

/-- A step changes ST or a result register by `Reset` or a command word only, or leaves all four (R18, R23). -/
theorem sameOutcome_or_pending {s t : State} (h : step s = .next t) :
    SameOutcome t s ∨ ∃ rest, s.pending = .reset :: rest ∨ ∃ w, s.pending = .write 3 w :: rest := by
  cases pending : s.pending with
  | nil =>
    rw [step_of_idle pending] at h
    cases h
    exact .inl ⟨rfl, rfl, rfl, rfl⟩
  | cons act rest =>
    cases leaves : leavesOutcome act with
    | true =>
      obtain ⟨u, e, -, same⟩ := step_of_leavesOutcome pending leaves
      rw [e] at h
      cases h
      exact .inl same
    | false =>
      rcases (leavesOutcome_eq_false_iff act).mp leaves with rfl | ⟨w, rfl⟩
      · exact .inr ⟨rest, .inl rfl⟩
      · exact .inr ⟨rest, .inr ⟨w, rfl⟩⟩

/-- Settles O37: any other step leaves the four registers. -/
theorem outcomeIsWrittenByCommandsAndResetOnly : Obligations.OutcomeIsWrittenByCommandsAndResetOnly := by
  intro s
  obtain ⟨t, h⟩ := exists_step s
  exact ⟨t, h, fun changed => (sameOutcome_or_pending h).resolve_left changed⟩

/-! Runs to the end of the host's actions (R109). -/

/-- A host write returns nothing to the host (R32). -/
@[simp] theorem afterWrite_observed (idx : RegIndex) (v : Word) (s : State) :
    (afterWrite idx v s).observed = s.observed := by
  by_cases hidx : idx = 3
  · subst hidx
    exact finish_observed _ s
  · rw [afterWrite_of_ne hidx]
    cases regOfIndex idx <;> rfl

/-- A step takes one action off the host's list and returns one value if it is a read, none otherwise (R31). -/
theorem step_observes {s : State} {act : HostAction} {rest : List HostAction} (h : s.pending = act :: rest) :
    ∃ t values, step s = .next t ∧ t.pending = rest ∧ t.observed = s.observed ++ values ∧
      values.length = [act].countP isRead := by
  cases act with
  | reset => exact ⟨_, [], step_of_pending_reset s rest h, rfl, (List.append_nil _).symm, rfl⟩
  | write idx v =>
    refine ⟨_, [], step_of_pending_write s idx v rest h, afterWrite_pending idx v _, ?_, rfl⟩
    rw [afterWrite_observed, List.append_nil]
  | read idx => exact ⟨_, [hostRead idx s], step_of_pending_read s idx rest h, rfl, rfl, rfl⟩

/-- A run of as many steps as actions are pending performs them all (R109). -/
theorem run_to_end {actions : List HostAction} (s : State) (h : s.pending = actions) :
    ∃ t values, run actions.length s = .next t ∧ t.pending = [] ∧ t.observed = s.observed ++ values ∧
      values.length = actions.countP isRead := by
  induction actions generalizing s with
  | nil => exact ⟨s, [], run_zero s, h, (List.append_nil _).symm, rfl⟩
  | cons act rest ih =>
    obtain ⟨t, first, steps, pending_t, observed_t, count_first⟩ := step_observes h
    obtain ⟨u, others, runs, pending_u, observed_u, count_others⟩ := ih t pending_t
    refine ⟨u, first ++ others, (run_of_step s t _ steps).trans runs, pending_u, ?_, ?_⟩
    · rw [observed_u, observed_t, List.append_assoc]
    · rw [List.length_append, count_first, count_others, ← List.countP_append, List.singleton_append]

/-- Settles O49: each step answers a next state, and the run is by induction on the pending actions. -/
theorem everySequenceRunsToItsEnd : Obligations.EverySequenceRunsToItsEnd :=
  ⟨exists_step, fun s => run_to_end s rfl⟩

end Sys2Proof.Machine

/-! ### Consistency (spec/10_state.md, spec/60_exceptions.md), R24 to R26, R80, R81 and R83 -/

namespace Sys2Proof.Machine

/-! What a successful command delivers. -/

/-- What the results of every command satisfy: a count up to 32, a valid mask, and one kind of result (R24 to R26). -/
structure Results.Sound (r : Results) : Prop where
  countBounded : r.rc.toNat ≤ 32
  secondContiguous : Contiguous r.r1
  oneKind : r.rc ≠ 0 → r.r0 = 0 ∧ r.r1 = 0

/-- The mask /0, which a result register without result holds, is valid (R15). -/
theorem zero_contiguous : Contiguous 0 := prefixMask_contiguous 0

/-- Field results are sound when the second is a valid mask. -/
theorem Results.sound_of_fields (x : Word) {m : Word} (valid : Contiguous m) :
    Results.Sound { r0 := x, r1 := m } :=
  ⟨Nat.zero_le 32, valid, fun nonzero => absurd rfl nonzero⟩

/-- An integer result is sound when it is a count up to 32. -/
theorem Results.sound_of_count {n : Word} (h : n.toNat ≤ 32) : Results.Sound { rc := n } :=
  ⟨h, zero_contiguous, fun _ => ⟨rfl, rfl⟩⟩

/-- An outcome whose results, if it has any, are sound. -/
def SoundOutcome (o : Except Failure Results) : Prop := ∀ r, o = .ok r → r.Sound

theorem soundOutcome_map {α : Type} {o : Except Failure α} {g : α → Results} (h : ∀ x, o = .ok x → (g x).Sound) :
    SoundOutcome (o.map g) := by
  cases o with
  | error f => nofun
  | ok x => rintro r ⟨⟩; exact h x rfl

/-- `cidr_from_mask` answers a count up to 32 (R65). -/
theorem cidrFromMask_le {m n : Word} (h : cidrFromMask m = .ok n) : n.toNat ≤ 32 := by
  rcases cidrFromMask_cases m with ⟨-, e⟩ | ⟨-, e⟩ <;> rw [e] at h
  · cases h
    rw [popcount_toNat]
    exact popcount_le m
  · cases h

/-- A constructed Address has a valid mask (R77). -/
theorem construct_contiguous {a m : Word} {h : Bool} {x : Address} (made : construct a m h = .ok x) :
    Contiguous x.maskBits := by
  rcases construct_cases a m h with ⟨-, e⟩ | ⟨valid, -, e⟩ | ⟨-, -, f, -, e⟩ | ⟨valid, -, -, e⟩ <;> rw [e] at made
  · cases made
  · cases made
    exact (maskValid_iff_contiguous m).mp valid
  · cases made
  · cases made
    exact (maskValid_iff_contiguous m).mp valid

theorem constructFromCidr_contiguous {a : Word} {c : Int} {h : Bool} {x : Address}
    (made : constructFromCidr a c h = .ok x) : Contiguous x.maskBits := by
  rcases constructFromCidr_cases a c h with ⟨-, e⟩ | ⟨-, -, e⟩ <;> rw [e] at made
  · cases made
  · exact construct_contiguous made

/-- Every command's results are sound. -/
theorem outcomeOf_sound (i : Instr) (a m c : Word) : SoundOutcome (outcomeOf i a m c) := by
  cases i with
  | vmask | c2m | netid | bcast => exact soundOutcome_map fun x _ => Results.sound_of_fields _ zero_contiguous
  | m2c => exact soundOutcome_map fun n counts => Results.sound_of_count (cidrFromMask_le counts)
  | mkaddr h => exact soundOutcome_map fun x made => Results.sound_of_fields _ (construct_contiguous made)
  | mkaddrc h => exact soundOutcome_map fun x made => Results.sound_of_fields _ (constructFromCidr_contiguous made)

theorem wordOutcome_sound (w a m c : Word) : SoundOutcome (wordOutcome w a m c) := by
  rw [wordOutcome]
  cases decode w with
  | ok i => exact outcomeOf_sound i a m c
  | error e => nofun

/-! Consistent states. -/

/-- A state without results is consistent under each code the block writes. -/
theorem consistent_of_no_results {s : State} (code : StatusWritable s) (h0 : s.r0 = 0) (h1 : s.r1 = 0)
    (hc : s.rc = 0) : Consistent s := by
  refine ⟨code, fun _ => ⟨h0, h1, hc⟩, ?_, ?_, fun _ => ⟨h0, h1⟩⟩
  · rw [PrefixLengthBounded, hc]
    exact Nat.zero_le 32
  · rw [SecondResultContiguous, h1]
    exact zero_contiguous

/-- A failure writes one of the codes 4 to 8 (R80). -/
theorem Failure.code_mem (f : Failure) : f.status.code ∈ ([0, 1, 4, 5, 6, 7, 8] : List StatusCode) := by
  cases f <;> decide

/-- A command that ends by a sound outcome leaves a consistent state, whatever stood there before (R83). -/
theorem finish_consistent {o : Except Failure Results} (sound : SoundOutcome o) (s : State) :
    Consistent (finish o s) := by
  cases o with
  | error f => exact consistent_of_no_results f.code_mem rfl rfl rfl
  | ok r =>
    have sound_r := sound r rfl
    have code : StatusWritable (finish (.ok r) s) := by rw [StatusWritable, finish_st, outcomeCode_ok]; decide
    exact ⟨code, fun failed => absurd rfl failed, sound_r.countBounded, sound_r.secondContiguous, sound_r.oneKind⟩

/-- Consistency is a property of ST and the result registers. -/
theorem Consistent.of_sameOutcome {s t : State} (consistent : Consistent s) (same : SameOutcome t s) :
    Consistent t := by
  obtain ⟨hst, h0, h1, hc⟩ := same
  rw [Consistent, StatusWritable, ResultsOnlyOnSuccess, PrefixLengthBounded, SecondResultContiguous, OneKindOfResult,
    hst, h0, h1, hc]
  exact consistent

theorem resetRegisters_consistent (s : State) : Consistent (resetRegisters s) :=
  consistent_of_no_results (by rw [StatusWritable, resetRegisters_st]; decide) rfl rfl rfl

/-- Settles O47: the reset state has code 0 and no results. -/
theorem resetIsConsistent : Obligations.ResetIsConsistent := resetRegisters_consistent State.reset

/-- Settles O48: a step leaves ST and the results, or is `Reset`, or is a command, which ends by a sound outcome. -/
theorem everyStepKeepsConsistency : Obligations.EveryStepKeepsConsistency := by
  intro s t consistent h
  rcases sameOutcome_or_pending h with same | ⟨rest, pending | ⟨w, pending⟩⟩
  · exact consistent.of_sameOutcome same
  · rw [step_of_pending_reset s rest pending] at h
    cases h
    exact resetRegisters_consistent _
  · rw [step_of_pending_command s w rest pending] at h
    cases h
    exact finish_consistent (wordOutcome_sound w s.a s.m s.c) _

end Sys2Proof.Machine

/-! ### What a command's outcome depends on (spec/30_encoding.md, spec/70_reset_and_hazards.md), R47 and R102 -/

namespace Sys2Proof.Machine

/-- The outcome is computed from the operands the command reads (R47). -/
theorem outcomeOf_congr (i : Instr) {a m c a' m' c' : Word} (ha : readsA i = true → a = a')
    (hm : readsM i = true → m = m') (hc : readsC i = true → c = c') : outcomeOf i a m c = outcomeOf i a' m' c' := by
  cases i with
  | vmask | m2c => rw [hm rfl]; rfl
  | c2m => rw [hc rfl]; rfl
  | netid | bcast | mkaddr _ => rw [ha rfl, hm rfl]; rfl
  | mkaddrc _ => rw [ha rfl, hc rfl]; rfl

/-- Settles O32: the two outcomes are equal, and the command leaves its outcome. -/
theorem unreadOperandsHaveNoInfluence : Obligations.UnreadOperandsHaveNoInfluence := by
  intro i s s' ha hm hc
  refine ⟨_, _, exec_eq_finish i s, exec_eq_finish i s', ?_⟩
  rw [outcomeOf_congr i ha hm hc]
  exact finish_sameOutcome _ s s'

/-- Settles O43: on the operands 0, 0, 0 the mask is valid, the address is its own network id, and C is out of
range. -/
theorem commandsOnTheResetState : Obligations.CommandsOnTheResetState := by
  have valid : Contiguous State.reset.m := zero_contiguous
  have out : CidrOutOfRange State.reset.c := cidrOutOfRange_of_unmade (.inl rfl)
  have nid : State.reset.a = networkIdBits State.reset.a State.reset.m := rfl
  refine ⟨exec_vmask_of_contiguous valid, exec_c2m_of_out_of_range out, exec_m2c_of_contiguous valid,
    exec_netid_of_contiguous valid, exec_bcast_of_contiguous valid, ?_, ?_, exec_mkaddrc_of_out_of_range false out,
    exec_mkaddrc_of_out_of_range true out⟩
  · rw [exec_mkaddr, afterConstruct_without_flag valid]
    rfl
  · rw [exec_mkaddr, afterConstruct_of_networkId valid nid]
    rfl

end Sys2Proof.Machine

/-! ### The count on /p and the attributes of an Address (spec/90_conflicts.md C2, spec/10_state.md R14) -/

namespace Sys2Proof.Machine

/-- Settles O17: /p is valid and has `p` ones. -/
theorem m2cReturnsThePrefixLength : Obligations.M2cReturnsThePrefixLength := by
  intro s p hp hm
  have valid : Contiguous s.m := hm ▸ prefixMask_contiguous p
  rw [exec_m2c_of_contiguous valid, hm, popcount_prefixMask hp]

/-- The three derived attributes of an Address in R0 and R1 whose mask is valid, its fields copied to A and M (R14). -/
theorem derivedAttributes_of_contiguous {t : State} (valid : Contiguous t.r1) :
    ∃ p n b,
      exec .m2c { t with a := t.r0, m := t.r1 } = .next p ∧
      exec .netid { t with a := t.r0, m := t.r1 } = .next n ∧
      exec .bcast { t with a := t.r0, m := t.r1 } = .next b ∧
      p.st = 1 ∧ n.st = 1 ∧ b.st = 1 ∧ t.r1 = prefixMask p.rc.toNat ∧
      n.r0 = networkIdBits t.r0 t.r1 ∧ b.r0 = broadcastBits t.r0 t.r1 := by
  refine ⟨_, _, _, exec_m2c_of_contiguous valid, exec_netid_of_contiguous valid, exec_bcast_of_contiguous valid,
    rfl, rfl, rfl, ?_, rfl, rfl⟩
  dsimp only
  rw [popcount_toNat, prefixMask_popcount valid]

/-- A successful construction leaves a valid mask, and with the host flag an address that is neither derived one
(R77). -/
theorem exec_construction_success {i : Instr} {h : Bool} (construction : i = .mkaddr h ∨ i = .mkaddrc h) (s : State) :
    ∃ t, exec i s = .next t ∧
      (t.st = 1 → Contiguous t.r1 ∧
        (h = true → t.r0 ≠ networkIdBits t.r0 t.r1 ∧ t.r0 ≠ broadcastBits t.r0 t.r1)) := by
  obtain ⟨from_mask, from_cidr, -⟩ := constructedAddressInvariants
  rcases construction with rfl | rfl
  · obtain ⟨t, runs, invariants⟩ := from_mask s h
    refine ⟨t, runs, fun success => ?_⟩
    obtain ⟨valid, -, -, host⟩ := invariants success
    exact ⟨valid, host⟩
  · obtain ⟨t, runs, invariants⟩ := from_cidr s h
    refine ⟨t, runs, fun success => ?_⟩
    obtain ⟨valid, -, -, host⟩ := invariants success
    exact ⟨valid, host⟩

/-- Settles O27: the constructed mask is valid, which is all the three commands need. -/
theorem derivedAttributesOfAnAddressAreAvailable : Obligations.DerivedAttributesOfAnAddressAreAvailable := by
  intro s i h construction
  obtain ⟨t, runs, invariants⟩ := exec_construction_success construction s
  refine ⟨t, runs, fun success => ?_⟩
  obtain ⟨valid, host⟩ := invariants success
  obtain ⟨p, n, b, counts, derives_n, derives_b, hp, hn, hb, mask, nid, bc⟩ := derivedAttributes_of_contiguous valid
  refine ⟨p, n, b, counts, derives_n, derives_b, hp, hn, hb, mask, fun flag => ?_⟩
  obtain ⟨not_nid, not_bc⟩ := host flag
  exact ⟨nid ▸ not_nid.symm, bc ▸ not_bc.symm⟩

end Sys2Proof.Machine

/-! ### The order of the failures (spec/60_exceptions.md), R87 -/

namespace Sys2Proof.Machine

/-! The four tests a legal command makes, each of them only if the command has it. -/

/-- The mask of the host tests: M, or the derived mask for a command that reads C. -/
def testMask (i : Instr) (s : State) : Word := if readsC i = true then prefixMask s.c.toNat else s.m

/-- C is read and out of range (R63, R76). -/
def CidrFails (i : Instr) (s : State) : Prop := readsC i = true ∧ CidrOutOfRange s.c

/-- M is read and not contiguous (R60). -/
def MaskFails (i : Instr) (s : State) : Prop := readsM i = true ∧ ¬Contiguous s.m

/-- A host address is asked for and A is the network id (R75). -/
def IsNetworkId (i : Instr) (s : State) : Prop := i.hostFlag = true ∧ s.a = networkIdBits s.a (testMask i s)

/-- A host address is asked for and A is the broadcast address (R75). -/
def IsBroadcast (i : Instr) (s : State) : Prop := i.hostFlag = true ∧ s.a = broadcastBits s.a (testMask i s)

/-- The code of the first test that fails, in the fixed order, or 1 (R87). -/
inductive FirstFailure (i : Instr) (s : State) : StatusCode → Prop
  | cidr (cidr : CidrFails i s) : FirstFailure i s 5
  | mask (no_cidr : ¬CidrFails i s) (mask : MaskFails i s) : FirstFailure i s 4
  | networkId (no_cidr : ¬CidrFails i s) (no_mask : ¬MaskFails i s) (nid : IsNetworkId i s) : FirstFailure i s 6
  | broadcast (no_cidr : ¬CidrFails i s) (no_mask : ¬MaskFails i s) (no_nid : ¬IsNetworkId i s) (bc : IsBroadcast i s) :
      FirstFailure i s 7
  | none (no_cidr : ¬CidrFails i s) (no_mask : ¬MaskFails i s) (no_nid : ¬IsNetworkId i s)
      (no_bc : ¬IsBroadcast i s) : FirstFailure i s 1

/-- Each code is that of the first failure under its own condition, and under no other. -/
theorem FirstFailure.code_iff {i : Instr} {s : State} {k : StatusCode} (first : FirstFailure i s k) :
    (k = 5 ↔ CidrFails i s) ∧
    (k = 4 ↔ ¬CidrFails i s ∧ MaskFails i s) ∧
    (k = 6 ↔ ¬CidrFails i s ∧ ¬MaskFails i s ∧ IsNetworkId i s) ∧
    (k = 7 ↔ ¬CidrFails i s ∧ ¬MaskFails i s ∧ ¬IsNetworkId i s ∧ IsBroadcast i s) ∧
    (k = 1 ↔ ¬CidrFails i s ∧ ¬MaskFails i s ∧ ¬IsNetworkId i s ∧ ¬IsBroadcast i s) := by
  cases first with
  | cidr cidr => simp [cidr]
  | mask no_cidr mask => simp [no_cidr, mask]
  | networkId no_cidr no_mask nid => simp [no_cidr, no_mask, nid]
  | broadcast no_cidr no_mask no_nid bc => simp [no_cidr, no_mask, no_nid, bc]
  | none no_cidr no_mask no_nid no_bc => simp [no_cidr, no_mask, no_nid, no_bc]

/-- Without the host flag the two host tests are not made. -/
theorem FirstFailure.of_no_flag {i : Instr} {s : State} (plain : i.hostFlag = false) (no_cidr : ¬CidrFails i s)
    (no_mask : ¬MaskFails i s) : FirstFailure i s 1 := by
  refine .none no_cidr no_mask (fun nid => ?_) (fun bc => ?_)
  · exact Bool.false_ne_true (plain.symm.trans nid.1)
  · exact Bool.false_ne_true (plain.symm.trans bc.1)

theorem not_cidrFails_of_no_read {i : Instr} (unread : readsC i = false) (s : State) : ¬CidrFails i s :=
  fun fails => Bool.false_ne_true (unread.symm.trans fails.1)

theorem not_maskFails_of_no_read {i : Instr} (unread : readsM i = false) (s : State) : ¬MaskFails i s :=
  fun fails => Bool.false_ne_true (unread.symm.trans fails.1)

/-- A command that only validates M reports the validation (R60, R65, R68, R70). -/
theorem firstFailure_of_validation {i : Instr} (reads_m : readsM i = true) (unread_c : readsC i = false)
    (plain : i.hostFlag = false) (s : State) : FirstFailure i s (outcomeCode (validateMask s.m)) := by
  have no_cidr := not_cidrFails_of_no_read unread_c s
  by_cases valid : Contiguous s.m
  · rw [validateMask_of_contiguous valid]
    exact .of_no_flag plain no_cidr fun fails => fails.2 valid
  · rw [validateMask_of_not_contiguous valid]
    exact .mask no_cidr ⟨reads_m, valid⟩

/-- A construction past its range and mask tests reports the host tests, if it has the flag (R74, R75). -/
theorem firstFailure_of_construct {i : Instr} {s : State} (no_cidr : ¬CidrFails i s) (no_mask : ¬MaskFails i s)
    (valid : Contiguous (testMask i s)) :
    FirstFailure i s (outcomeCode (construct s.a (testMask i s) i.hostFlag)) := by
  cases flag : i.hostFlag with
  | false =>
    rw [construct_without_flag valid]
    exact .of_no_flag flag no_cidr no_mask
  | true =>
    rw [construct_with_flag valid, outcomeCode_map]
    rcases validateHost_cases s.a (testMask i s) with ⟨nid, e⟩ | ⟨not_nid, bc, e⟩ | ⟨not_nid, not_bc, e⟩ <;> rw [e]
    · exact .networkId no_cidr no_mask ⟨flag, nid⟩
    · exact .broadcast no_cidr no_mask (fun nid => not_nid nid.2) ⟨flag, bc⟩
    · exact .none no_cidr no_mask (fun nid => not_nid nid.2) (fun bc => not_bc bc.2)

/-- C2M makes the range test alone (R63). -/
theorem firstFailure_c2m (s : State) : FirstFailure .c2m s (outcomeCode (maskFromCidr s.c.toInt)) := by
  rcases maskFromCidr_cases s.c.toInt with ⟨out, e⟩ | ⟨low, high, e⟩ <;> rw [e]
  · exact .cidr ⟨rfl, out⟩
  · refine .of_no_flag rfl (fun fails => ?_) (not_maskFails_of_no_read rfl s)
    rcases fails.2 with below | above <;> omega

/-- MKADDR makes the mask test, then the host tests on M (R74). -/
theorem firstFailure_mkaddr (h : Bool) (s : State) :
    FirstFailure (.mkaddr h) s (outcomeCode (construct s.a s.m h)) := by
  have no_cidr : ¬CidrFails (.mkaddr h) s := not_cidrFails_of_no_read rfl s
  by_cases valid : Contiguous s.m
  · exact firstFailure_of_construct no_cidr (fun fails => fails.2 valid) valid
  · rw [construct, validateMask_of_not_contiguous valid]
    exact .mask no_cidr ⟨rfl, valid⟩

/-- MKADDRC makes the range test, then the host tests on the derived mask (R76). -/
theorem firstFailure_mkaddrc (h : Bool) (s : State) :
    FirstFailure (.mkaddrc h) s (outcomeCode (constructFromCidr s.a s.c.toInt h)) := by
  rcases constructFromCidr_cases s.a s.c.toInt h with ⟨out, e⟩ | ⟨low, high, e⟩ <;> rw [e]
  · exact .cidr ⟨rfl, out⟩
  · obtain ⟨-, le_thirty⟩ := toNat_in_range low high
    have no_cidr : ¬CidrFails (.mkaddrc h) s := fun fails => by rcases fails.2 with below | above <;> omega
    rw [leadingOnes_toInt_eq_prefixMask le_thirty]
    exact firstFailure_of_construct no_cidr (not_maskFails_of_no_read rfl s) (prefixMask_contiguous _)

/-- Every command ends with the code of its first failure (R87). -/
theorem outcomeOf_firstFailure (i : Instr) (s : State) :
    FirstFailure i s (outcomeCode (outcomeOf i s.a s.m s.c)) := by
  cases i with
  | vmask | m2c | netid | bcast =>
    simp only [outcomeOf, cidrFromMask, networkId, broadcast, outcomeCode_map]
    exact firstFailure_of_validation rfl rfl rfl s
  | c2m =>
    rw [outcomeOf, outcomeCode_map]
    exact firstFailure_c2m s
  | mkaddr h =>
    rw [outcomeOf, outcomeCode_map]
    exact firstFailure_mkaddr h s
  | mkaddrc h =>
    rw [outcomeOf, outcomeCode_map]
    exact firstFailure_mkaddrc h s

/-- Settles O29: an illegal word fails before any operand is read, and a legal command ends with the code of its first
failure. -/
theorem firstApplicableFailureIsReported : Obligations.FirstApplicableFailureIsReported := by
  refine ⟨fun s w rest e h illegal => ?_, fun s i => ?_⟩
  · exact ⟨_, step_of_pending_illegal_word s w rest h illegal, rfl⟩
  · refine ⟨_, exec_eq_finish i s, ?_⟩
    rw [finish_st]
    exact (outcomeOf_firstFailure i s).code_iff

end Sys2Proof.Machine
